-- ==== Sys2Proof/Word.lean ====
section
/-!
DEFINITION. Word.lean: the widths of the unit's ports and registers, as bit vectors, and nothing else.
Bit 0 is the least significant bit of every value (spec/00_scope.md R9).
-/

namespace Sys2Proof

/-- A 32-bit register or command word: `CMD`, `CTL`, `FLG` (spec/10_state.md R20, R24, R30). -/
abbrev Word := BitVec 32

/-- A 64-bit word, the unit of multi-word values and the width of port `X` (R9, R20). -/
abbrev Dword := BitVec 64

/-- The pattern of a floating-point value of any of the five formats, in the low `K` bits, zeros above (spec/20_memory.md R51).
The width is that of port `C` and of the widest format. -/
abbrev Pat := BitVec 128

/-- A value on port `A`, `B` or `R` (R20). -/
abbrev Wide := BitVec 256

/-- A mask of exception flags: one bit for each of the seven flags of `FLG` (R30), and no other. -/
abbrev Flags := BitVec 7

end Sys2Proof
end

