-- ==== Sys2Proof/Syntax.lean ====
section
/-!
DEFINITION. Syntax.lean: the instructions of spec/opcode_table.json, one constructor a row, the modifier bits that the row leaves free
(spec/30_encoding.md R74) as its arguments; and the selectors' names (R71 to R73). No constructor has another field, because a command word
holds no immediate (R77).
-/

namespace Sys2Proof

/-- A word count (R73): 1 to 4 words of 64 bits. -/
inductive Words where
  | w1
  | w2
  | w3
  | w4
  deriving DecidableEq, Repr

/-- A floating-point format (R71). -/
inductive Fmt where
  | f16
  | f32
  | f64
  | f80
  | f128
  deriving DecidableEq, Repr

/-- An integer type (R72). -/
inductive IntTy where
  | i32
  | i64
  | u32
  | u64
  deriving DecidableEq, Repr

/-- One constructor for each row of the opcode table, in its order. -/
inductive Instr where
  -- OPC 0x00, R100
  | add64
  | add128
  | add192
  | add256
  -- OPC 0x01, R101
  | sub64
  | sub128
  | sub192
  | sub256
  -- OPC 0x02, R102
  | cmpeq64
  | cmpeq128
  | cmpeq192
  | cmpeq256
  -- OPC 0x03, R103
  | cmpne64
  | cmpne128
  | cmpne192
  | cmpne256
  -- OPC 0x04, R104
  | cmplt64
  | cmplt128
  | cmplt192
  | cmplt256
  -- OPC 0x05, R105
  | cmple64
  | cmple128
  | cmple192
  | cmple256
  -- OPC 0x06, R106
  | shl64
  | shl128
  | shl192
  | shl256
  -- OPC 0x07, R107
  | shr64
  | shr128
  | shr192
  | shr256
  -- OPC 0x08, R108
  | shrj64
  | shrj128
  | shrj192
  | shrj256
  -- OPC 0x09, R109
  | clz64
  | clz128
  | clz192
  | clz256
  -- OPC 0x0A, R110
  | mul64x64
  | mul128x64
  | mul192x64
  -- OPC 0x0B, R111
  | mul128x128
  -- OPC 0x0C, R131
  | divest128
  -- OPC 0x0D, R133
  | divq128
  -- OPC 0x20, R145
  | xsignF16
  | xsignF32
  | xsignF64
  | xsignF80
  | xsignF128
  -- OPC 0x21, R146
  | xexpF16
  | xexpF32
  | xexpF64
  | xexpF80
  | xexpF128
  -- OPC 0x22, R147
  | xsigF16
  | xsigF32
  | xsigF64
  | xsigF80
  | xsigF128
  -- OPC 0x23, R148
  | packF16
  | packF32
  | packF64
  | packF80
  | packF128
  -- OPC 0x30, R171
  | rpackF16
  | rpackF32
  | rpackF64
  | rpackF80
  | rpackF128
  -- OPC 0x31, R183
  | nrpackF16
  | nrpackF32
  | nrpackF64
  | nrpackF80
  | nrpackF128
  -- OPC 0x32, R185
  | rpackiI32
  | rpackiI64
  | rpackiU32
  | rpackiU64
  -- OPC 0x40, R204
  | issnanF16
  | issnanF32
  | issnanF64
  | issnanF80
  | issnanF128
  -- OPC 0x41, R205
  | isqnanF16
  | isqnanF32
  | isqnanF64
  | isqnanF80
  | isqnanF128
  -- OPC 0x42, R206
  | propnanF16
  | propnanF32
  | propnanF64
  | propnanF80
  | propnanF128
  -- OPC 0x43, R207
  | propnan3F16 (infzero : Bool)
  | propnan3F32 (infzero : Bool)
  | propnan3F64 (infzero : Bool)
  | propnan3F80 (infzero : Bool)
  | propnan3F128 (infzero : Bool)
  -- OPC 0x44, R208
  | defnanF16
  | defnanF32
  | defnanF64
  | defnanF80
  | defnanF128
  -- OPC 0x50, R231
  | i2fF16I32
  | i2fF16I64
  | i2fF16U32
  | i2fF16U64
  | i2fF32I32
  | i2fF32I64
  | i2fF32U32
  | i2fF32U64
  | i2fF64I32
  | i2fF64I64
  | i2fF64U32
  | i2fF64U64
  | i2fF80I32
  | i2fF80I64
  | i2fF80U32
  | i2fF80U64
  | i2fF128I32
  | i2fF128I64
  | i2fF128U32
  | i2fF128U64
  -- OPC 0x51, R235
  | f2iF16I32 (rz : Bool)
  | f2iF16I64 (rz : Bool)
  | f2iF16U32 (rz : Bool)
  | f2iF16U64 (rz : Bool)
  | f2iF32I32 (rz : Bool)
  | f2iF32I64 (rz : Bool)
  | f2iF32U32 (rz : Bool)
  | f2iF32U64 (rz : Bool)
  | f2iF64I32 (rz : Bool)
  | f2iF64I64 (rz : Bool)
  | f2iF64U32 (rz : Bool)
  | f2iF64U64 (rz : Bool)
  | f2iF80I32 (rz : Bool)
  | f2iF80I64 (rz : Bool)
  | f2iF80U32 (rz : Bool)
  | f2iF80U64 (rz : Bool)
  | f2iF128I32 (rz : Bool)
  | f2iF128I64 (rz : Bool)
  | f2iF128U32 (rz : Bool)
  | f2iF128U64 (rz : Bool)
  -- OPC 0x52, R240
  | f2fF16F32
  | f2fF16F64
  | f2fF16F80
  | f2fF16F128
  | f2fF32F16
  | f2fF32F64
  | f2fF32F80
  | f2fF32F128
  | f2fF64F16
  | f2fF64F32
  | f2fF64F80
  | f2fF64F128
  | f2fF80F16
  | f2fF80F32
  | f2fF80F64
  | f2fF80F128
  | f2fF128F16
  | f2fF128F32
  | f2fF128F64
  | f2fF128F80
  -- OPC 0x60, R255
  | faddF16
  | faddF32
  | faddF64
  | faddF80
  | faddF128
  -- OPC 0x61, R256
  | fsubF16
  | fsubF32
  | fsubF64
  | fsubF80
  | fsubF128
  -- OPC 0x62, R257
  | fmulF16
  | fmulF32
  | fmulF64
  | fmulF80
  | fmulF128
  -- OPC 0x63, R258
  | fdivF16
  | fdivF32
  | fdivF64
  | fdivF80
  | fdivF128
  -- OPC 0x64, R259
  | fremF16
  | fremF32
  | fremF64
  | fremF80
  | fremF128
  -- OPC 0x65, R260
  | fmaF16 (negC negP negR halve : Bool)
  | fmaF32 (negC negP negR halve : Bool)
  | fmaF64 (negC negP negR halve : Bool)
  | fmaF80 (negC negP negR halve : Bool)
  | fmaF128 (negC negP negR halve : Bool)
  -- OPC 0x66, R261
  | fsqrtF16
  | fsqrtF32
  | fsqrtF64
  | fsqrtF80
  | fsqrtF128
  -- OPC 0x67, R262
  | frintF16
  | frintF32
  | frintF64
  | frintF80
  | frintF128
  -- OPC 0x68, R263
  | fscalbnF16
  | fscalbnF32
  | fscalbnF64
  | fscalbnF80
  | fscalbnF128
  -- OPC 0x70, R292
  | feqF16 (q : Bool)
  | feqF32 (q : Bool)
  | feqF64 (q : Bool)
  | feqF80 (q : Bool)
  | feqF128 (q : Bool)
  -- OPC 0x71, R293
  | fleF16 (q : Bool)
  | fleF32 (q : Bool)
  | fleF64 (q : Bool)
  | fleF80 (q : Bool)
  | fleF128 (q : Bool)
  -- OPC 0x72, R294
  | fltF16 (q : Bool)
  | fltF32 (q : Bool)
  | fltF64 (q : Bool)
  | fltF80 (q : Bool)
  | fltF128 (q : Bool)
  -- OPC 0x73, R295
  | funordF16 (q : Bool)
  | funordF32 (q : Bool)
  | funordF64 (q : Bool)
  | funordF80 (q : Bool)
  | funordF128 (q : Bool)
  -- OPC 0x74, R296
  | fcmpF16 (q : Bool)
  | fcmpF32 (q : Bool)
  | fcmpF64 (q : Bool)
  | fcmpF80 (q : Bool)
  | fcmpF128 (q : Bool)
  -- OPC 0x75, R298
  | fminnumF16
  | fminnumF32
  | fminnumF64
  | fminnumF80
  | fminnumF128
  -- OPC 0x76, R299
  | fmaxnumF16
  | fmaxnumF32
  | fmaxnumF64
  | fmaxnumF80
  | fmaxnumF128
  -- OPC 0x77, R300
  | fminnummagF16
  | fminnummagF32
  | fminnummagF64
  | fminnummagF80
  | fminnummagF128
  -- OPC 0x78, R301
  | fmaxnummagF16
  | fmaxnummagF32
  | fmaxnummagF64
  | fmaxnummagF80
  | fmaxnummagF128
  -- OPC 0x80, R320
  | rdctl
  -- OPC 0x81, R321
  | wrctl
  -- OPC 0x82, R322
  | rdflg
  -- OPC 0x83, R323
  | wrflg
  deriving DecidableEq, Repr

end Sys2Proof
end

