-- ==== Sys2Proof/WellFormed.lean ====
section
/-!
DEFINITION. WellFormed.lean: the command word's fields (spec/30_encoding.md R70) and when they are legal (R76, R86).
A term of `Instr` carries nothing but modifier bits that its operation defines, so no term of `Instr` is ill-formed; what a
requester can get wrong is the command word. The five checks below are stated on the word's fields, one for each cause of
R346, by ranges of operation codes. `decode` (Decode.lean) does not call them: it follows R75 row by row, and that the two
agree is a statement about the model.
-/

namespace Sys2Proof

/-- The fields of a command word (R70). -/
structure Command where
  /-- `CMD[7:0]`, the operation code. -/
  opc : BitVec 8
  /-- `CMD[10:8]`, the first selector. -/
  fmt : BitVec 3
  /-- `CMD[13:11]`, the second selector. -/
  fmt2 : BitVec 3
  /-- `CMD[17:14]`, the modifier bits. -/
  mod : BitVec 4
  /-- `CMD[31:18]`, reserved. -/
  rsv : BitVec 14
  deriving DecidableEq, Repr

/-- The cause of an `IllegalCommand`, in the order of the checks (R76, spec/60_exceptions.md R346). The unit reports `ERR = 1`
for all of them; the cause is for the reader. -/
inductive IllegalCause where
  /-- `CMD[31:18] ≠ 0`. -/
  | reservedBits
  /-- `OPC` is no code of R75. -/
  | badOpcode
  /-- `FMT` is not legal for the row. -/
  | badFormat
  /-- `FMT2` is not legal for the row. -/
  | badFormat2
  /-- A `MOD` bit that the row does not define is 1. -/
  | badModifier
  deriving DecidableEq, Repr

namespace Command

/-- Is `n` in `lo` to `hi`? -/
def inRange (lo hi n : Nat) : Bool := decide (lo ≤ n) && decide (n ≤ hi)

/-- Check 1 of R76: the reserved bits are zero. -/
def reservedOk (c : Command) : Bool := c.rsv == 0

/-- Check 2 of R76: the operation code is one of R75's. -/
def opcodeOk (c : Command) : Bool :=
  let o := c.opc.toNat
  inRange 0x00 0x0D o || inRange 0x20 0x23 o || inRange 0x30 0x32 o || inRange 0x40 0x44 o || inRange 0x50 0x52 o
    || inRange 0x60 0x68 o || inRange 0x70 0x78 o || inRange 0x80 0x83 o

/-- Check 3 of R76, for a word whose operation code is legal. -/
def formatOk (c : Command) : Bool :=
  let o := c.opc.toNat
  let f := c.fmt.toNat
  if inRange 0x00 0x09 o then decide (f ≤ 3)
  else if o = 0x0A then decide (f ≤ 2)
  else if inRange 0x0B 0x0D o then f == 1
  else if o = 0x32 || inRange 0x80 0x83 o then f == 0
  else decide (f ≤ 4)

/-- Check 4 of R76, for a word whose operation code and `FMT` are legal. -/
def format2Ok (c : Command) : Bool :=
  let o := c.opc.toNat
  let f2 := c.fmt2.toNat
  if o = 0x32 || o = 0x50 || o = 0x51 then decide (f2 ≤ 3)
  else if o = 0x52 then decide (f2 ≤ 4) && c.fmt2 != c.fmt
  else f2 == 0

/-- Check 5 of R76: the modifier bits that no row of the operation defines (R74) are zero. -/
def modifierOk (c : Command) : Bool :=
  let o := c.opc.toNat
  if o = 0x65 then true
  else if o = 0x51 || o = 0x43 || inRange 0x70 0x74 o then decide (c.mod.toNat ≤ 1)
  else c.mod == 0

/-- The fields of a legal command word (R76, R86). -/
def wellFormed (c : Command) : Bool :=
  c.reservedOk && c.opcodeOk && c.formatOk && c.format2Ok && c.modifierOk

end Command

end Sys2Proof
end

