-- ==== Sys2Proof/Decode.lean ====
section
/-!
DEFINITION. Decode.lean: from a command word to an instruction or the cause of its refusal (spec/30_encoding.md R70 to R76), and the encoder.
The decoder follows R75 and R76: one reader for each kind of row. The encoder, after it, is written row by row from
spec/opcode_table.json.
-/

namespace Sys2Proof

/-! ## The rows of the operation map (R75) by operation and selector -/

/-- `ADD` (R75, OPC 0x00). -/
def Row.add : Words → Instr
  | .w1 => .add64
  | .w2 => .add128
  | .w3 => .add192
  | .w4 => .add256

/-- `SUB` (R75, OPC 0x01). -/
def Row.sub : Words → Instr
  | .w1 => .sub64
  | .w2 => .sub128
  | .w3 => .sub192
  | .w4 => .sub256

/-- `CMPEQ` (R75, OPC 0x02). -/
def Row.cmpeq : Words → Instr
  | .w1 => .cmpeq64
  | .w2 => .cmpeq128
  | .w3 => .cmpeq192
  | .w4 => .cmpeq256

/-- `CMPNE` (R75, OPC 0x03). -/
def Row.cmpne : Words → Instr
  | .w1 => .cmpne64
  | .w2 => .cmpne128
  | .w3 => .cmpne192
  | .w4 => .cmpne256

/-- `CMPLT` (R75, OPC 0x04). -/
def Row.cmplt : Words → Instr
  | .w1 => .cmplt64
  | .w2 => .cmplt128
  | .w3 => .cmplt192
  | .w4 => .cmplt256

/-- `CMPLE` (R75, OPC 0x05). -/
def Row.cmple : Words → Instr
  | .w1 => .cmple64
  | .w2 => .cmple128
  | .w3 => .cmple192
  | .w4 => .cmple256

/-- `SHL` (R75, OPC 0x06). -/
def Row.shl : Words → Instr
  | .w1 => .shl64
  | .w2 => .shl128
  | .w3 => .shl192
  | .w4 => .shl256

/-- `SHR` (R75, OPC 0x07). -/
def Row.shr : Words → Instr
  | .w1 => .shr64
  | .w2 => .shr128
  | .w3 => .shr192
  | .w4 => .shr256

/-- `SHRJ` (R75, OPC 0x08). -/
def Row.shrj : Words → Instr
  | .w1 => .shrj64
  | .w2 => .shrj128
  | .w3 => .shrj192
  | .w4 => .shrj256

/-- `CLZ` (R75, OPC 0x09). -/
def Row.clz : Words → Instr
  | .w1 => .clz64
  | .w2 => .clz128
  | .w3 => .clz192
  | .w4 => .clz256

/-- `MUL` (R75, OPC 0x0A). -/
def Row.mul : Words → Option Instr
  | .w1 => some .mul64x64
  | .w2 => some .mul128x64
  | .w3 => some .mul192x64
  | .w4 => none

/-- `XSIGN` (R75, OPC 0x20). -/
def Row.xsign : Fmt → Instr
  | .f16 => .xsignF16
  | .f32 => .xsignF32
  | .f64 => .xsignF64
  | .f80 => .xsignF80
  | .f128 => .xsignF128

/-- `XEXP` (R75, OPC 0x21). -/
def Row.xexp : Fmt → Instr
  | .f16 => .xexpF16
  | .f32 => .xexpF32
  | .f64 => .xexpF64
  | .f80 => .xexpF80
  | .f128 => .xexpF128

/-- `XSIG` (R75, OPC 0x22). -/
def Row.xsig : Fmt → Instr
  | .f16 => .xsigF16
  | .f32 => .xsigF32
  | .f64 => .xsigF64
  | .f80 => .xsigF80
  | .f128 => .xsigF128

/-- `PACK` (R75, OPC 0x23). -/
def Row.pack : Fmt → Instr
  | .f16 => .packF16
  | .f32 => .packF32
  | .f64 => .packF64
  | .f80 => .packF80
  | .f128 => .packF128

/-- `RPACK` (R75, OPC 0x30). -/
def Row.rpack : Fmt → Instr
  | .f16 => .rpackF16
  | .f32 => .rpackF32
  | .f64 => .rpackF64
  | .f80 => .rpackF80
  | .f128 => .rpackF128

/-- `NRPACK` (R75, OPC 0x31). -/
def Row.nrpack : Fmt → Instr
  | .f16 => .nrpackF16
  | .f32 => .nrpackF32
  | .f64 => .nrpackF64
  | .f80 => .nrpackF80
  | .f128 => .nrpackF128

/-- `RPACKI` (R75, OPC 0x32). -/
def Row.rpacki : IntTy → Instr
  | .i32 => .rpackiI32
  | .i64 => .rpackiI64
  | .u32 => .rpackiU32
  | .u64 => .rpackiU64

/-- `ISSNAN` (R75, OPC 0x40). -/
def Row.issnan : Fmt → Instr
  | .f16 => .issnanF16
  | .f32 => .issnanF32
  | .f64 => .issnanF64
  | .f80 => .issnanF80
  | .f128 => .issnanF128

/-- `ISQNAN` (R75, OPC 0x41). -/
def Row.isqnan : Fmt → Instr
  | .f16 => .isqnanF16
  | .f32 => .isqnanF32
  | .f64 => .isqnanF64
  | .f80 => .isqnanF80
  | .f128 => .isqnanF128

/-- `PROPNAN` (R75, OPC 0x42). -/
def Row.propnan : Fmt → Instr
  | .f16 => .propnanF16
  | .f32 => .propnanF32
  | .f64 => .propnanF64
  | .f80 => .propnanF80
  | .f128 => .propnanF128

/-- `PROPNAN3` (R75, OPC 0x43). -/
def Row.propnan3 : Fmt → Bool → Instr
  | .f16, infzero => .propnan3F16 infzero
  | .f32, infzero => .propnan3F32 infzero
  | .f64, infzero => .propnan3F64 infzero
  | .f80, infzero => .propnan3F80 infzero
  | .f128, infzero => .propnan3F128 infzero

/-- `DEFNAN` (R75, OPC 0x44). -/
def Row.defnan : Fmt → Instr
  | .f16 => .defnanF16
  | .f32 => .defnanF32
  | .f64 => .defnanF64
  | .f80 => .defnanF80
  | .f128 => .defnanF128

/-- `I2F` (R75, OPC 0x50). -/
def Row.i2f : Fmt → IntTy → Instr
  | .f16, .i32 => .i2fF16I32
  | .f16, .i64 => .i2fF16I64
  | .f16, .u32 => .i2fF16U32
  | .f16, .u64 => .i2fF16U64
  | .f32, .i32 => .i2fF32I32
  | .f32, .i64 => .i2fF32I64
  | .f32, .u32 => .i2fF32U32
  | .f32, .u64 => .i2fF32U64
  | .f64, .i32 => .i2fF64I32
  | .f64, .i64 => .i2fF64I64
  | .f64, .u32 => .i2fF64U32
  | .f64, .u64 => .i2fF64U64
  | .f80, .i32 => .i2fF80I32
  | .f80, .i64 => .i2fF80I64
  | .f80, .u32 => .i2fF80U32
  | .f80, .u64 => .i2fF80U64
  | .f128, .i32 => .i2fF128I32
  | .f128, .i64 => .i2fF128I64
  | .f128, .u32 => .i2fF128U32
  | .f128, .u64 => .i2fF128U64

/-- `F2I` (R75, OPC 0x51). -/
def Row.f2i : Fmt → IntTy → Bool → Instr
  | .f16, .i32, rz => .f2iF16I32 rz
  | .f16, .i64, rz => .f2iF16I64 rz
  | .f16, .u32, rz => .f2iF16U32 rz
  | .f16, .u64, rz => .f2iF16U64 rz
  | .f32, .i32, rz => .f2iF32I32 rz
  | .f32, .i64, rz => .f2iF32I64 rz
  | .f32, .u32, rz => .f2iF32U32 rz
  | .f32, .u64, rz => .f2iF32U64 rz
  | .f64, .i32, rz => .f2iF64I32 rz
  | .f64, .i64, rz => .f2iF64I64 rz
  | .f64, .u32, rz => .f2iF64U32 rz
  | .f64, .u64, rz => .f2iF64U64 rz
  | .f80, .i32, rz => .f2iF80I32 rz
  | .f80, .i64, rz => .f2iF80I64 rz
  | .f80, .u32, rz => .f2iF80U32 rz
  | .f80, .u64, rz => .f2iF80U64 rz
  | .f128, .i32, rz => .f2iF128I32 rz
  | .f128, .i64, rz => .f2iF128I64 rz
  | .f128, .u32, rz => .f2iF128U32 rz
  | .f128, .u64, rz => .f2iF128U64 rz

/-- `F2F` (R75, OPC 0x52). -/
def Row.f2f : Fmt → Fmt → Option Instr
  | .f16, .f32 => some .f2fF16F32
  | .f16, .f64 => some .f2fF16F64
  | .f16, .f80 => some .f2fF16F80
  | .f16, .f128 => some .f2fF16F128
  | .f32, .f16 => some .f2fF32F16
  | .f32, .f64 => some .f2fF32F64
  | .f32, .f80 => some .f2fF32F80
  | .f32, .f128 => some .f2fF32F128
  | .f64, .f16 => some .f2fF64F16
  | .f64, .f32 => some .f2fF64F32
  | .f64, .f80 => some .f2fF64F80
  | .f64, .f128 => some .f2fF64F128
  | .f80, .f16 => some .f2fF80F16
  | .f80, .f32 => some .f2fF80F32
  | .f80, .f64 => some .f2fF80F64
  | .f80, .f128 => some .f2fF80F128
  | .f128, .f16 => some .f2fF128F16
  | .f128, .f32 => some .f2fF128F32
  | .f128, .f64 => some .f2fF128F64
  | .f128, .f80 => some .f2fF128F80
  | .f16, .f16 => none
  | .f32, .f32 => none
  | .f64, .f64 => none
  | .f80, .f80 => none
  | .f128, .f128 => none

/-- `FADD` (R75, OPC 0x60). -/
def Row.fadd : Fmt → Instr
  | .f16 => .faddF16
  | .f32 => .faddF32
  | .f64 => .faddF64
  | .f80 => .faddF80
  | .f128 => .faddF128

/-- `FSUB` (R75, OPC 0x61). -/
def Row.fsub : Fmt → Instr
  | .f16 => .fsubF16
  | .f32 => .fsubF32
  | .f64 => .fsubF64
  | .f80 => .fsubF80
  | .f128 => .fsubF128

/-- `FMUL` (R75, OPC 0x62). -/
def Row.fmul : Fmt → Instr
  | .f16 => .fmulF16
  | .f32 => .fmulF32
  | .f64 => .fmulF64
  | .f80 => .fmulF80
  | .f128 => .fmulF128

/-- `FDIV` (R75, OPC 0x63). -/
def Row.fdiv : Fmt → Instr
  | .f16 => .fdivF16
  | .f32 => .fdivF32
  | .f64 => .fdivF64
  | .f80 => .fdivF80
  | .f128 => .fdivF128

/-- `FREM` (R75, OPC 0x64). -/
def Row.frem : Fmt → Instr
  | .f16 => .fremF16
  | .f32 => .fremF32
  | .f64 => .fremF64
  | .f80 => .fremF80
  | .f128 => .fremF128

/-- `FMA` (R75, OPC 0x65). -/
def Row.fma : Fmt → Bool → Bool → Bool → Bool → Instr
  | .f16, negC, negP, negR, halve => .fmaF16 negC negP negR halve
  | .f32, negC, negP, negR, halve => .fmaF32 negC negP negR halve
  | .f64, negC, negP, negR, halve => .fmaF64 negC negP negR halve
  | .f80, negC, negP, negR, halve => .fmaF80 negC negP negR halve
  | .f128, negC, negP, negR, halve => .fmaF128 negC negP negR halve

/-- `FSQRT` (R75, OPC 0x66). -/
def Row.fsqrt : Fmt → Instr
  | .f16 => .fsqrtF16
  | .f32 => .fsqrtF32
  | .f64 => .fsqrtF64
  | .f80 => .fsqrtF80
  | .f128 => .fsqrtF128

/-- `FRINT` (R75, OPC 0x67). -/
def Row.frint : Fmt → Instr
  | .f16 => .frintF16
  | .f32 => .frintF32
  | .f64 => .frintF64
  | .f80 => .frintF80
  | .f128 => .frintF128

/-- `FSCALBN` (R75, OPC 0x68). -/
def Row.fscalbn : Fmt → Instr
  | .f16 => .fscalbnF16
  | .f32 => .fscalbnF32
  | .f64 => .fscalbnF64
  | .f80 => .fscalbnF80
  | .f128 => .fscalbnF128

/-- `FEQ` (R75, OPC 0x70). -/
def Row.feq : Fmt → Bool → Instr
  | .f16, q => .feqF16 q
  | .f32, q => .feqF32 q
  | .f64, q => .feqF64 q
  | .f80, q => .feqF80 q
  | .f128, q => .feqF128 q

/-- `FLE` (R75, OPC 0x71). -/
def Row.fle : Fmt → Bool → Instr
  | .f16, q => .fleF16 q
  | .f32, q => .fleF32 q
  | .f64, q => .fleF64 q
  | .f80, q => .fleF80 q
  | .f128, q => .fleF128 q

/-- `FLT` (R75, OPC 0x72). -/
def Row.flt : Fmt → Bool → Instr
  | .f16, q => .fltF16 q
  | .f32, q => .fltF32 q
  | .f64, q => .fltF64 q
  | .f80, q => .fltF80 q
  | .f128, q => .fltF128 q

/-- `FUNORD` (R75, OPC 0x73). -/
def Row.funord : Fmt → Bool → Instr
  | .f16, q => .funordF16 q
  | .f32, q => .funordF32 q
  | .f64, q => .funordF64 q
  | .f80, q => .funordF80 q
  | .f128, q => .funordF128 q

/-- `FCMP` (R75, OPC 0x74). -/
def Row.fcmp : Fmt → Bool → Instr
  | .f16, q => .fcmpF16 q
  | .f32, q => .fcmpF32 q
  | .f64, q => .fcmpF64 q
  | .f80, q => .fcmpF80 q
  | .f128, q => .fcmpF128 q

/-- `FMINNUM` (R75, OPC 0x75). -/
def Row.fminnum : Fmt → Instr
  | .f16 => .fminnumF16
  | .f32 => .fminnumF32
  | .f64 => .fminnumF64
  | .f80 => .fminnumF80
  | .f128 => .fminnumF128

/-- `FMAXNUM` (R75, OPC 0x76). -/
def Row.fmaxnum : Fmt → Instr
  | .f16 => .fmaxnumF16
  | .f32 => .fmaxnumF32
  | .f64 => .fmaxnumF64
  | .f80 => .fmaxnumF80
  | .f128 => .fmaxnumF128

/-- `FMINNUMMAG` (R75, OPC 0x77). -/
def Row.fminnummag : Fmt → Instr
  | .f16 => .fminnummagF16
  | .f32 => .fminnummagF32
  | .f64 => .fminnummagF64
  | .f80 => .fminnummagF80
  | .f128 => .fminnummagF128

/-- `FMAXNUMMAG` (R75, OPC 0x78). -/
def Row.fmaxnummag : Fmt → Instr
  | .f16 => .fmaxnummagF16
  | .f32 => .fmaxnummagF32
  | .f64 => .fmaxnummagF64
  | .f80 => .fmaxnummagF80
  | .f128 => .fmaxnummagF128

/-! ## Selector codes -/

/-- A word-count code (R73). -/
def wordsOf (f : BitVec 3) : Option Words :=
  match f.toNat with
  | 0 => some .w1
  | 1 => some .w2
  | 2 => some .w3
  | 3 => some .w4
  | _ => none

/-- A format code (R71). -/
def fmtOf (f : BitVec 3) : Option Fmt :=
  match f.toNat with
  | 0 => some .f16
  | 1 => some .f32
  | 2 => some .f64
  | 3 => some .f80
  | 4 => some .f128
  | _ => none

/-- An integer type code (R72). -/
def intTyOf (f : BitVec 3) : Option IntTy :=
  match f.toNat with
  | 0 => some .i32
  | 1 => some .i64
  | 2 => some .u32
  | 3 => some .u64
  | _ => none

/-! ## The readers, one for each kind of row: `FMT`, then `FMT2`, then `MOD` (R76 checks 3 to 5) -/

/-- The fields of a command word (R70). -/
def Command.ofWord (w : Word) : Command :=
  { opc := w.extractLsb' 0 8
    fmt := w.extractLsb' 8 3
    fmt2 := w.extractLsb' 11 3
    mod := w.extractLsb' 14 4
    rsv := w.extractLsb' 18 14 }

/-- What `x` names, or the cause `e`. -/
def need {α : Type} (e : IllegalCause) : Option α → Except IllegalCause α
  | some v => .ok v
  | none => .error e

/-- Go on if `p` holds, else the cause `e`. -/
def check (p : Bool) (e : IllegalCause) (k : Except IllegalCause Instr) : Except IllegalCause Instr := if p then k else .error e

/-- A row that uses neither `FMT2` nor `MOD`. -/
def plain (c : Command) (i : Instr) : Except IllegalCause Instr :=
  check (c.fmt2 == 0) .badFormat2 (check (c.mod == 0) .badModifier (.ok i))

/-- A row with one modifier bit, `MOD[0]`. -/
def oneBit (c : Command) (f : Bool → Instr) : Except IllegalCause Instr :=
  check (c.mod.extractLsb' 1 3 == 0) .badModifier (.ok (f (c.mod.getLsbD 0)))

/-- `FMT` is a word count. -/
def rowWords (row : Words → Instr) (c : Command) : Except IllegalCause Instr :=
  match need .badFormat (wordsOf c.fmt) with
  | .error e => .error e
  | .ok n => plain c (row n)

/-- `FMT` is the word count of `MUL`'s wide operand. -/
def rowMul (row : Words → Option Instr) (c : Command) : Except IllegalCause Instr :=
  match need .badFormat ((wordsOf c.fmt).bind row) with
  | .error e => .error e
  | .ok i => plain c i

/-- `FMT` is the constant `f`. -/
def rowFixed (f : BitVec 3) (i : Instr) (c : Command) : Except IllegalCause Instr :=
  check (c.fmt == f) .badFormat (plain c i)

/-- `FMT` is a format. -/
def rowFmt (row : Fmt → Instr) (c : Command) : Except IllegalCause Instr :=
  match need .badFormat (fmtOf c.fmt) with
  | .error e => .error e
  | .ok F => plain c (row F)

/-- `FMT` is a format, `MOD[0]` a modifier. -/
def rowFmtBit (row : Fmt → Bool → Instr) (c : Command) : Except IllegalCause Instr :=
  match need .badFormat (fmtOf c.fmt) with
  | .error e => .error e
  | .ok F => check (c.fmt2 == 0) .badFormat2 (oneBit c (row F))

/-- `FMT` is a format, all four bits of `MOD` are modifiers: `FMA`. -/
def rowFma (row : Fmt → Bool → Bool → Bool → Bool → Instr) (c : Command) : Except IllegalCause Instr :=
  match need .badFormat (fmtOf c.fmt) with
  | .error e => .error e
  | .ok F =>
    check (c.fmt2 == 0) .badFormat2 (.ok (row F (c.mod.getLsbD 0) (c.mod.getLsbD 1) (c.mod.getLsbD 2) (c.mod.getLsbD 3)))

/-- `FMT` is 0, `FMT2` an integer type: `RPACKI`. -/
def rowInt (row : IntTy → Instr) (c : Command) : Except IllegalCause Instr :=
  check (c.fmt == 0) .badFormat
    (match need .badFormat2 (intTyOf c.fmt2) with
    | .error e => .error e
    | .ok T => check (c.mod == 0) .badModifier (.ok (row T)))

/-- `FMT` is a format, `FMT2` an integer type: `I2F`. -/
def rowFmtInt (row : Fmt → IntTy → Instr) (c : Command) : Except IllegalCause Instr :=
  match need .badFormat (fmtOf c.fmt), need .badFormat2 (intTyOf c.fmt2) with
  | .error e, _ => .error e
  | .ok _, .error e => .error e
  | .ok F, .ok T => check (c.mod == 0) .badModifier (.ok (row F T))

/-- `FMT` is a format, `FMT2` an integer type, `MOD[0]` a modifier: `F2I`. -/
def rowFmtIntBit (row : Fmt → IntTy → Bool → Instr) (c : Command) : Except IllegalCause Instr :=
  match need .badFormat (fmtOf c.fmt), need .badFormat2 (intTyOf c.fmt2) with
  | .error e, _ => .error e
  | .ok _, .error e => .error e
  | .ok F, .ok T => oneBit c (row F T)

/-- `FMT` is a format, `FMT2` another: `F2F`. -/
def rowFmtFmt (row : Fmt → Fmt → Option Instr) (c : Command) : Except IllegalCause Instr :=
  match need .badFormat (fmtOf c.fmt) with
  | .error e => .error e
  | .ok F =>
    match need .badFormat2 ((fmtOf c.fmt2).bind (row F)) with
    | .error e => .error e
    | .ok i => check (c.mod == 0) .badModifier (.ok i)

/-- The row of an operation code (R75), read with the checks 2 to 5 of R76. -/
def decodeFields (c : Command) : Except IllegalCause Instr :=
  match c.opc.toNat with
  | 0x00 => rowWords Row.add c
  | 0x01 => rowWords Row.sub c
  | 0x02 => rowWords Row.cmpeq c
  | 0x03 => rowWords Row.cmpne c
  | 0x04 => rowWords Row.cmplt c
  | 0x05 => rowWords Row.cmple c
  | 0x06 => rowWords Row.shl c
  | 0x07 => rowWords Row.shr c
  | 0x08 => rowWords Row.shrj c
  | 0x09 => rowWords Row.clz c
  | 0x0A => rowMul Row.mul c
  | 0x0B => rowFixed 1 .mul128x128 c
  | 0x0C => rowFixed 1 .divest128 c
  | 0x0D => rowFixed 1 .divq128 c
  | 0x20 => rowFmt Row.xsign c
  | 0x21 => rowFmt Row.xexp c
  | 0x22 => rowFmt Row.xsig c
  | 0x23 => rowFmt Row.pack c
  | 0x30 => rowFmt Row.rpack c
  | 0x31 => rowFmt Row.nrpack c
  | 0x32 => rowInt Row.rpacki c
  | 0x40 => rowFmt Row.issnan c
  | 0x41 => rowFmt Row.isqnan c
  | 0x42 => rowFmt Row.propnan c
  | 0x43 => rowFmtBit Row.propnan3 c
  | 0x44 => rowFmt Row.defnan c
  | 0x50 => rowFmtInt Row.i2f c
  | 0x51 => rowFmtIntBit Row.f2i c
  | 0x52 => rowFmtFmt Row.f2f c
  | 0x60 => rowFmt Row.fadd c
  | 0x61 => rowFmt Row.fsub c
  | 0x62 => rowFmt Row.fmul c
  | 0x63 => rowFmt Row.fdiv c
  | 0x64 => rowFmt Row.frem c
  | 0x65 => rowFma Row.fma c
  | 0x66 => rowFmt Row.fsqrt c
  | 0x67 => rowFmt Row.frint c
  | 0x68 => rowFmt Row.fscalbn c
  | 0x70 => rowFmtBit Row.feq c
  | 0x71 => rowFmtBit Row.fle c
  | 0x72 => rowFmtBit Row.flt c
  | 0x73 => rowFmtBit Row.funord c
  | 0x74 => rowFmtBit Row.fcmp c
  | 0x75 => rowFmt Row.fminnum c
  | 0x76 => rowFmt Row.fmaxnum c
  | 0x77 => rowFmt Row.fminnummag c
  | 0x78 => rowFmt Row.fmaxnummag c
  | 0x80 => rowFixed 0 .rdctl c
  | 0x81 => rowFixed 0 .wrctl c
  | 0x82 => rowFixed 0 .rdflg c
  | 0x83 => rowFixed 0 .wrflg c
  | _ => .error .badOpcode

/-- Decoding (R76): check 1, then the row's. It reads `CMD` only. -/
def decode (w : Word) : Except IllegalCause Instr :=
  check ((Command.ofWord w).rsv == 0) .reservedBits (decodeFields (Command.ofWord w))

/-- The instruction that a table word stands for: the command word is the whole instruction (R70), so the bits beyond `nbits` are 0. -/
def decodeTableWord (nbits w : Nat) : Option Instr :=
  match decode (BitVec.ofNat 32 (w % 2 ^ nbits)) with
  | .ok i => some i
  | .error _ => none

/-! ## The encoder -/

/-- The command word with the given fields (R70). -/
def Command.word (c : Command) : Word := (c.rsv ++ c.mod ++ c.fmt2 ++ c.fmt ++ c.opc : BitVec 32)

/-- `MOD` of a row with one modifier (R74). -/
def modBit (b : Bool) : BitVec 4 := if b then 1 else 0

/-- `MOD` of `FMA` (R74): `NEG_C` bit 0, `NEG_P` bit 1, `NEG_R` bit 2, `HALVE` bit 3. -/
def modBits (negC negP negR halve : Bool) : BitVec 4 :=
  modBit negC ||| modBit negP <<< 1 ||| modBit negR <<< 2 ||| modBit halve <<< 3

/-- The command of a row: its code, its two selectors and its modifiers; the reserved bits are zero. -/
def Command.row (opc : BitVec 8) (fmt fmt2 : BitVec 3) (mod : BitVec 4) : Command :=
  { opc := opc, fmt := fmt, fmt2 := fmt2, mod := mod, rsv := 0 }

/-- The fields of an instruction's command word, row by row from spec/opcode_table.json. -/
def Instr.command : Instr → Command
  | .add64 => .row 0x00 0 0 0
  | .add128 => .row 0x00 1 0 0
  | .add192 => .row 0x00 2 0 0
  | .add256 => .row 0x00 3 0 0
  | .sub64 => .row 0x01 0 0 0
  | .sub128 => .row 0x01 1 0 0
  | .sub192 => .row 0x01 2 0 0
  | .sub256 => .row 0x01 3 0 0
  | .cmpeq64 => .row 0x02 0 0 0
  | .cmpeq128 => .row 0x02 1 0 0
  | .cmpeq192 => .row 0x02 2 0 0
  | .cmpeq256 => .row 0x02 3 0 0
  | .cmpne64 => .row 0x03 0 0 0
  | .cmpne128 => .row 0x03 1 0 0
  | .cmpne192 => .row 0x03 2 0 0
  | .cmpne256 => .row 0x03 3 0 0
  | .cmplt64 => .row 0x04 0 0 0
  | .cmplt128 => .row 0x04 1 0 0
  | .cmplt192 => .row 0x04 2 0 0
  | .cmplt256 => .row 0x04 3 0 0
  | .cmple64 => .row 0x05 0 0 0
  | .cmple128 => .row 0x05 1 0 0
  | .cmple192 => .row 0x05 2 0 0
  | .cmple256 => .row 0x05 3 0 0
  | .shl64 => .row 0x06 0 0 0
  | .shl128 => .row 0x06 1 0 0
  | .shl192 => .row 0x06 2 0 0
  | .shl256 => .row 0x06 3 0 0
  | .shr64 => .row 0x07 0 0 0
  | .shr128 => .row 0x07 1 0 0
  | .shr192 => .row 0x07 2 0 0
  | .shr256 => .row 0x07 3 0 0
  | .shrj64 => .row 0x08 0 0 0
  | .shrj128 => .row 0x08 1 0 0
  | .shrj192 => .row 0x08 2 0 0
  | .shrj256 => .row 0x08 3 0 0
  | .clz64 => .row 0x09 0 0 0
  | .clz128 => .row 0x09 1 0 0
  | .clz192 => .row 0x09 2 0 0
  | .clz256 => .row 0x09 3 0 0
  | .mul64x64 => .row 0x0A 0 0 0
  | .mul128x64 => .row 0x0A 1 0 0
  | .mul192x64 => .row 0x0A 2 0 0
  | .mul128x128 => .row 0x0B 1 0 0
  | .divest128 => .row 0x0C 1 0 0
  | .divq128 => .row 0x0D 1 0 0
  | .xsignF16 => .row 0x20 0 0 0
  | .xsignF32 => .row 0x20 1 0 0
  | .xsignF64 => .row 0x20 2 0 0
  | .xsignF80 => .row 0x20 3 0 0
  | .xsignF128 => .row 0x20 4 0 0
  | .xexpF16 => .row 0x21 0 0 0
  | .xexpF32 => .row 0x21 1 0 0
  | .xexpF64 => .row 0x21 2 0 0
  | .xexpF80 => .row 0x21 3 0 0
  | .xexpF128 => .row 0x21 4 0 0
  | .xsigF16 => .row 0x22 0 0 0
  | .xsigF32 => .row 0x22 1 0 0
  | .xsigF64 => .row 0x22 2 0 0
  | .xsigF80 => .row 0x22 3 0 0
  | .xsigF128 => .row 0x22 4 0 0
  | .packF16 => .row 0x23 0 0 0
  | .packF32 => .row 0x23 1 0 0
  | .packF64 => .row 0x23 2 0 0
  | .packF80 => .row 0x23 3 0 0
  | .packF128 => .row 0x23 4 0 0
  | .rpackF16 => .row 0x30 0 0 0
  | .rpackF32 => .row 0x30 1 0 0
  | .rpackF64 => .row 0x30 2 0 0
  | .rpackF80 => .row 0x30 3 0 0
  | .rpackF128 => .row 0x30 4 0 0
  | .nrpackF16 => .row 0x31 0 0 0
  | .nrpackF32 => .row 0x31 1 0 0
  | .nrpackF64 => .row 0x31 2 0 0
  | .nrpackF80 => .row 0x31 3 0 0
  | .nrpackF128 => .row 0x31 4 0 0
  | .rpackiI32 => .row 0x32 0 0 0
  | .rpackiI64 => .row 0x32 0 1 0
  | .rpackiU32 => .row 0x32 0 2 0
  | .rpackiU64 => .row 0x32 0 3 0
  | .issnanF16 => .row 0x40 0 0 0
  | .issnanF32 => .row 0x40 1 0 0
  | .issnanF64 => .row 0x40 2 0 0
  | .issnanF80 => .row 0x40 3 0 0
  | .issnanF128 => .row 0x40 4 0 0
  | .isqnanF16 => .row 0x41 0 0 0
  | .isqnanF32 => .row 0x41 1 0 0
  | .isqnanF64 => .row 0x41 2 0 0
  | .isqnanF80 => .row 0x41 3 0 0
  | .isqnanF128 => .row 0x41 4 0 0
  | .propnanF16 => .row 0x42 0 0 0
  | .propnanF32 => .row 0x42 1 0 0
  | .propnanF64 => .row 0x42 2 0 0
  | .propnanF80 => .row 0x42 3 0 0
  | .propnanF128 => .row 0x42 4 0 0
  | .propnan3F16 infzero => .row 0x43 0 0 (modBit infzero)
  | .propnan3F32 infzero => .row 0x43 1 0 (modBit infzero)
  | .propnan3F64 infzero => .row 0x43 2 0 (modBit infzero)
  | .propnan3F80 infzero => .row 0x43 3 0 (modBit infzero)
  | .propnan3F128 infzero => .row 0x43 4 0 (modBit infzero)
  | .defnanF16 => .row 0x44 0 0 0
  | .defnanF32 => .row 0x44 1 0 0
  | .defnanF64 => .row 0x44 2 0 0
  | .defnanF80 => .row 0x44 3 0 0
  | .defnanF128 => .row 0x44 4 0 0
  | .i2fF16I32 => .row 0x50 0 0 0
  | .i2fF16I64 => .row 0x50 0 1 0
  | .i2fF16U32 => .row 0x50 0 2 0
  | .i2fF16U64 => .row 0x50 0 3 0
  | .i2fF32I32 => .row 0x50 1 0 0
  | .i2fF32I64 => .row 0x50 1 1 0
  | .i2fF32U32 => .row 0x50 1 2 0
  | .i2fF32U64 => .row 0x50 1 3 0
  | .i2fF64I32 => .row 0x50 2 0 0
  | .i2fF64I64 => .row 0x50 2 1 0
  | .i2fF64U32 => .row 0x50 2 2 0
  | .i2fF64U64 => .row 0x50 2 3 0
  | .i2fF80I32 => .row 0x50 3 0 0
  | .i2fF80I64 => .row 0x50 3 1 0
  | .i2fF80U32 => .row 0x50 3 2 0
  | .i2fF80U64 => .row 0x50 3 3 0
  | .i2fF128I32 => .row 0x50 4 0 0
  | .i2fF128I64 => .row 0x50 4 1 0
  | .i2fF128U32 => .row 0x50 4 2 0
  | .i2fF128U64 => .row 0x50 4 3 0
  | .f2iF16I32 rz => .row 0x51 0 0 (modBit rz)
  | .f2iF16I64 rz => .row 0x51 0 1 (modBit rz)
  | .f2iF16U32 rz => .row 0x51 0 2 (modBit rz)
  | .f2iF16U64 rz => .row 0x51 0 3 (modBit rz)
  | .f2iF32I32 rz => .row 0x51 1 0 (modBit rz)
  | .f2iF32I64 rz => .row 0x51 1 1 (modBit rz)
  | .f2iF32U32 rz => .row 0x51 1 2 (modBit rz)
  | .f2iF32U64 rz => .row 0x51 1 3 (modBit rz)
  | .f2iF64I32 rz => .row 0x51 2 0 (modBit rz)
  | .f2iF64I64 rz => .row 0x51 2 1 (modBit rz)
  | .f2iF64U32 rz => .row 0x51 2 2 (modBit rz)
  | .f2iF64U64 rz => .row 0x51 2 3 (modBit rz)
  | .f2iF80I32 rz => .row 0x51 3 0 (modBit rz)
  | .f2iF80I64 rz => .row 0x51 3 1 (modBit rz)
  | .f2iF80U32 rz => .row 0x51 3 2 (modBit rz)
  | .f2iF80U64 rz => .row 0x51 3 3 (modBit rz)
  | .f2iF128I32 rz => .row 0x51 4 0 (modBit rz)
  | .f2iF128I64 rz => .row 0x51 4 1 (modBit rz)
  | .f2iF128U32 rz => .row 0x51 4 2 (modBit rz)
  | .f2iF128U64 rz => .row 0x51 4 3 (modBit rz)
  | .f2fF16F32 => .row 0x52 0 1 0
  | .f2fF16F64 => .row 0x52 0 2 0
  | .f2fF16F80 => .row 0x52 0 3 0
  | .f2fF16F128 => .row 0x52 0 4 0
  | .f2fF32F16 => .row 0x52 1 0 0
  | .f2fF32F64 => .row 0x52 1 2 0
  | .f2fF32F80 => .row 0x52 1 3 0
  | .f2fF32F128 => .row 0x52 1 4 0
  | .f2fF64F16 => .row 0x52 2 0 0
  | .f2fF64F32 => .row 0x52 2 1 0
  | .f2fF64F80 => .row 0x52 2 3 0
  | .f2fF64F128 => .row 0x52 2 4 0
  | .f2fF80F16 => .row 0x52 3 0 0
  | .f2fF80F32 => .row 0x52 3 1 0
  | .f2fF80F64 => .row 0x52 3 2 0
  | .f2fF80F128 => .row 0x52 3 4 0
  | .f2fF128F16 => .row 0x52 4 0 0
  | .f2fF128F32 => .row 0x52 4 1 0
  | .f2fF128F64 => .row 0x52 4 2 0
  | .f2fF128F80 => .row 0x52 4 3 0
  | .faddF16 => .row 0x60 0 0 0
  | .faddF32 => .row 0x60 1 0 0
  | .faddF64 => .row 0x60 2 0 0
  | .faddF80 => .row 0x60 3 0 0
  | .faddF128 => .row 0x60 4 0 0
  | .fsubF16 => .row 0x61 0 0 0
  | .fsubF32 => .row 0x61 1 0 0
  | .fsubF64 => .row 0x61 2 0 0
  | .fsubF80 => .row 0x61 3 0 0
  | .fsubF128 => .row 0x61 4 0 0
  | .fmulF16 => .row 0x62 0 0 0
  | .fmulF32 => .row 0x62 1 0 0
  | .fmulF64 => .row 0x62 2 0 0
  | .fmulF80 => .row 0x62 3 0 0
  | .fmulF128 => .row 0x62 4 0 0
  | .fdivF16 => .row 0x63 0 0 0
  | .fdivF32 => .row 0x63 1 0 0
  | .fdivF64 => .row 0x63 2 0 0
  | .fdivF80 => .row 0x63 3 0 0
  | .fdivF128 => .row 0x63 4 0 0
  | .fremF16 => .row 0x64 0 0 0
  | .fremF32 => .row 0x64 1 0 0
  | .fremF64 => .row 0x64 2 0 0
  | .fremF80 => .row 0x64 3 0 0
  | .fremF128 => .row 0x64 4 0 0
  | .fmaF16 negC negP negR halve => .row 0x65 0 0 (modBits negC negP negR halve)
  | .fmaF32 negC negP negR halve => .row 0x65 1 0 (modBits negC negP negR halve)
  | .fmaF64 negC negP negR halve => .row 0x65 2 0 (modBits negC negP negR halve)
  | .fmaF80 negC negP negR halve => .row 0x65 3 0 (modBits negC negP negR halve)
  | .fmaF128 negC negP negR halve => .row 0x65 4 0 (modBits negC negP negR halve)
  | .fsqrtF16 => .row 0x66 0 0 0
  | .fsqrtF32 => .row 0x66 1 0 0
  | .fsqrtF64 => .row 0x66 2 0 0
  | .fsqrtF80 => .row 0x66 3 0 0
  | .fsqrtF128 => .row 0x66 4 0 0
  | .frintF16 => .row 0x67 0 0 0
  | .frintF32 => .row 0x67 1 0 0
  | .frintF64 => .row 0x67 2 0 0
  | .frintF80 => .row 0x67 3 0 0
  | .frintF128 => .row 0x67 4 0 0
  | .fscalbnF16 => .row 0x68 0 0 0
  | .fscalbnF32 => .row 0x68 1 0 0
  | .fscalbnF64 => .row 0x68 2 0 0
  | .fscalbnF80 => .row 0x68 3 0 0
  | .fscalbnF128 => .row 0x68 4 0 0
  | .feqF16 q => .row 0x70 0 0 (modBit q)
  | .feqF32 q => .row 0x70 1 0 (modBit q)
  | .feqF64 q => .row 0x70 2 0 (modBit q)
  | .feqF80 q => .row 0x70 3 0 (modBit q)
  | .feqF128 q => .row 0x70 4 0 (modBit q)
  | .fleF16 q => .row 0x71 0 0 (modBit q)
  | .fleF32 q => .row 0x71 1 0 (modBit q)
  | .fleF64 q => .row 0x71 2 0 (modBit q)
  | .fleF80 q => .row 0x71 3 0 (modBit q)
  | .fleF128 q => .row 0x71 4 0 (modBit q)
  | .fltF16 q => .row 0x72 0 0 (modBit q)
  | .fltF32 q => .row 0x72 1 0 (modBit q)
  | .fltF64 q => .row 0x72 2 0 (modBit q)
  | .fltF80 q => .row 0x72 3 0 (modBit q)
  | .fltF128 q => .row 0x72 4 0 (modBit q)
  | .funordF16 q => .row 0x73 0 0 (modBit q)
  | .funordF32 q => .row 0x73 1 0 (modBit q)
  | .funordF64 q => .row 0x73 2 0 (modBit q)
  | .funordF80 q => .row 0x73 3 0 (modBit q)
  | .funordF128 q => .row 0x73 4 0 (modBit q)
  | .fcmpF16 q => .row 0x74 0 0 (modBit q)
  | .fcmpF32 q => .row 0x74 1 0 (modBit q)
  | .fcmpF64 q => .row 0x74 2 0 (modBit q)
  | .fcmpF80 q => .row 0x74 3 0 (modBit q)
  | .fcmpF128 q => .row 0x74 4 0 (modBit q)
  | .fminnumF16 => .row 0x75 0 0 0
  | .fminnumF32 => .row 0x75 1 0 0
  | .fminnumF64 => .row 0x75 2 0 0
  | .fminnumF80 => .row 0x75 3 0 0
  | .fminnumF128 => .row 0x75 4 0 0
  | .fmaxnumF16 => .row 0x76 0 0 0
  | .fmaxnumF32 => .row 0x76 1 0 0
  | .fmaxnumF64 => .row 0x76 2 0 0
  | .fmaxnumF80 => .row 0x76 3 0 0
  | .fmaxnumF128 => .row 0x76 4 0 0
  | .fminnummagF16 => .row 0x77 0 0 0
  | .fminnummagF32 => .row 0x77 1 0 0
  | .fminnummagF64 => .row 0x77 2 0 0
  | .fminnummagF80 => .row 0x77 3 0 0
  | .fminnummagF128 => .row 0x77 4 0 0
  | .fmaxnummagF16 => .row 0x78 0 0 0
  | .fmaxnummagF32 => .row 0x78 1 0 0
  | .fmaxnummagF64 => .row 0x78 2 0 0
  | .fmaxnummagF80 => .row 0x78 3 0 0
  | .fmaxnummagF128 => .row 0x78 4 0 0
  | .rdctl => .row 0x80 0 0 0
  | .wrctl => .row 0x81 0 0 0
  | .rdflg => .row 0x82 0 0 0
  | .wrflg => .row 0x83 0 0 0

/-- The command word of an instruction. -/
def encode (i : Instr) : Word := i.command.word

/-- An instruction is well-formed when its command word's fields pass the five checks (WellFormed.lean). -/
def Instr.wellFormed (i : Instr) : Bool := i.command.wellFormed

end Sys2Proof
end

