-- ==== Sys2Proof/Config.lean ====
section
/-!
DEFINITION. Config.lean: what is fixed when a unit is built and what the spec leaves open (spec/00_scope.md R7).
A value the spec leaves free is an opaque constant: nothing in Lean can tell what it is, so a theorem about it holds for every value.
-/

namespace Sys2Proof.Config

/-- Which operand a NaN propagation returns (spec/43_nan_policy.md R206, R207): the first, the second, the third, or "always
return a fixed default NaN". -/
inductive Pick where
  | first
  | second
  | third
  | default
  deriving DecidableEq, Repr

/-- `NAN_POLICY` (R7, R200): the strategy object of the NaN policy module. Every operation that consults it takes it as an argument.
`Sys2Proof.Machine.nanPolicy` (Machine/Nan.lean) is the spec's default (log entry 9). -/
structure NanPolicy where
  /-- `is_signaling`: is this NaN pattern signaling? Consulted for NaN patterns only (R202). -/
  isSignaling : Fmt → Pat → Bool
  /-- `quieten`: how a NaN is made quiet (R203). -/
  quieten : Fmt → Pat → Pat
  /-- `choose2`: which operand a two-operand propagation returns, when at least one is a NaN (R206). -/
  choose2 : Fmt → Pat → Pat → Pick
  /-- `choose3`: the same for the fused three-operand case (R207). -/
  choose3 : Fmt → Pat → Pat → Pat → Pick
  /-- `infzero_invalid`: does (0 x Inf) + quiet NaN set `INVALID`? (R207) -/
  infzeroInvalid : Bool
  /-- `default_nan(F)` (R208). -/
  defaultNan : Fmt → Pat

/-- `DIVEST_ERR(a, b)` (spec/40_multiword.md R131), before its clamp to the quotient: how far below the true quotient the divide
estimate is, 0, 1 or 2. A FREE VALUE: a fixed function of the operands and nothing more is known (log entry 8). -/
opaque divestErr : BitVec 128 → BitVec 64 → Fin 3

/-- What the n-th reset of the unit number `u` leaves in `CTL[7:0]`, at `resetCtl u n` (spec/10_state.md R37, spec/70_reset_and_hazards.md R381:
any value). A FREE VALUE, one for each instance and each of its resets: nothing ties two of them together (log entry 4). -/
opaque resetCtl : Nat → Nat → BitVec 8

/-- What the n-th reset of the unit number `u` leaves in `FLG[6:0]`, at `resetFlg u n` (R37, R381: any value). A FREE VALUE, one for each
instance and each of its resets (log entry 4). -/
opaque resetFlg : Nat → Nat → BitVec 7

/-- `NCTX` (R7, R23): how many independent instances of the unit there are; the spec's default (log entry 12). -/
def nctx : Nat := 1

/-- The two byte orders of a memory image. -/
inductive ByteOrder where
  | little
  | big
  deriving DecidableEq, Repr, Inhabited

/-- `HOST_BYTE_ORDER` (R7, spec/20_memory.md R52): open, outside the unit; no rule reads it and nothing of the model does (log entry 11). -/
opaque hostByteOrder : ByteOrder

/-- The parameters of R7 that the spec leaves to the target or to the implementation, as the arguments of the model. `Sys2Proof.Machine.defaultParams`
(Machine/Params.lean) are the spec's defaults, with which `exec` and `step` are built. -/
structure Params where
  /-- `NAN_POLICY`, its six members. -/
  nanPolicy : NanPolicy
  /-- `DIVEST_ERR(a, b)`, before its clamp to the quotient. -/
  divestErr : BitVec 128 → BitVec 64 → Fin 3
  /-- `NCTX`, the number of instances. -/
  nctx : Nat
  /-- `HOST_BYTE_ORDER`, which no rule reads. -/
  hostByteOrder : ByteOrder

end Sys2Proof.Config
end

