-- ==== Sys2Proof/Machine/Flags.lean ====
section
/-!
DEFINITION. Machine/Flags.lean: the seven exception flags (spec/10_state.md R30), and a value that carries the flags raised while it was computed.
The unit has no condition codes (R33): a comparison's verdict is a value.
-/

namespace Sys2Proof.Machine

/-- `INVALID`, bit 0. -/
def Flag.invalid : Flags := 0x01
/-- `DIVBYZERO`, bit 1. -/
def Flag.divByZero : Flags := 0x02
/-- `OVERFLOW`, bit 2. -/
def Flag.overflow : Flags := 0x04
/-- `UNDERFLOW`, bit 3. -/
def Flag.underflow : Flags := 0x08
/-- `INEXACT`, bit 4. -/
def Flag.inexact : Flags := 0x10
/-- `INPUT_DENORMAL`, bit 5. -/
def Flag.inputDenormal : Flags := 0x20
/-- `OUTPUT_DENORMAL`, bit 6. -/
def Flag.outputDenormal : Flags := 0x40

/-- The mask `m` if `p` holds, no flag otherwise. -/
def flagIf (p : Bool) (m : Flags) : Flags := if p then m else 0

/-- A result together with the flags raised on the way to it (the pending mask `m` of R340). -/
structure Flagged (α : Type) where
  val : α
  flags : Flags
  deriving DecidableEq, Repr

/-- The same result with the flags `m` raised as well. -/
def Flagged.raise {α : Type} (m : Flags) (v : Flagged α) : Flagged α := { v with flags := m ||| v.flags }

/-- A function of the result, the flags kept. -/
def Flagged.map {α β : Type} (f : α → β) (v : Flagged α) : Flagged β := { val := f v.val, flags := v.flags }

end Sys2Proof.Machine
end

