-- ==== Sys2Proof/Machine/State.lean ====
section
/-!
DEFINITION. Machine/State.lean: all the state the spec gives the unit (spec/10_state.md), as plain data, the reasons a step can
stop, and the state after reset.
The unit has no register file, no program counter and no memory (R21, R22, R34; spec/20_memory.md R50).
-/

namespace Sys2Proof.Machine

/-- The input ports of one request (R20). -/
structure Request where
  /-- `CMD`, the command word. -/
  cmd : Word
  /-- `A`, the first operand. -/
  a : Wide
  /-- `B`: the second operand, a shift count, or the exponent and sign of an engine input. -/
  b : Wide
  /-- `C`, the third operand. -/
  c : Pat
  deriving DecidableEq, Repr

/-- No request on the ports: they "hold nothing" (R20, R37), written as zeros (log entry 5). -/
def Request.absent : Request := { cmd := 0, a := 0, b := 0, c := 0 }

/-- The output ports of one response (R20, spec/60_exceptions.md R340). -/
structure Response where
  /-- `R`, the result. -/
  r : Wide
  /-- `X`, the auxiliary result. -/
  x : Dword
  /-- `ERR`: 0 completed, 1 IllegalCommand, 2 ContractViolation. -/
  err : BitVec 2
  deriving DecidableEq, Repr

/-- What reaches the unit from outside, one at a time (log entries 1, 4, 7). -/
inductive Input where
  /-- A request presented when no other is being answered (spec/20_memory.md R57). -/
  | request (q : Request)
  /-- The reset input (spec/70_reset_and_hazards.md R380), and the request it abandons when it comes during one (log entry 14). -/
  | reset (abandoned : Option Request)
  /-- A second request presented before the first has been answered: outside the contract (R57). -/
  | overlap (first second : Request)
  deriving DecidableEq, Repr

/-- The cause of a `ContractViolation` (spec/60_exceptions.md R344). The unit reports `ERR = 2` for all; the cause is for the reader. -/
inductive ContractCause where
  /-- `CTL.RM` is 6 or 7 when a rule reaches the rounding engine or the mode selection of `FRINT`. -/
  | badRoundingMode
  /-- `CTL.RP = 3` when an F80 rounding reads it. -/
  | badRoundingPrecision
  /-- A zero divisor of `DIVEST128` or `DIVQ128`. -/
  | zeroDivisor
  /-- A dividend of `DIVEST128` or `DIVQ128` whose quotient needs more than 64 bits. -/
  | quotientOverflow
  deriving DecidableEq, Repr

/-- The spec's faults (spec/00_scope.md R15). The spec says what each does to the unit and what it answers, so the machine TAKES it
(`takeFault` in Machine/Ops.lean) and goes on to a next state: no step ends in `Outcome.fault` (log entry 6). -/
inductive Fault where
  /-- Raised by the decode checks (R346). Safe: taken as the spec describes it, `ERR = 1` and nothing changed. -/
  | illegalCommand (cause : IllegalCause)
  /-- Raised by an operation's rule (R344). Safe: taken as the spec describes it, `ERR = 2` and `HALT` set. -/
  | contractViolation (cause : ContractCause)
  deriving DecidableEq, Repr

/-- Why a step has no meaning. -/
inductive Refusal where
  /-- Raised by an arm of `exec` whose instruction has no meaning yet. Safe: nothing is claimed of it. No arm does. -/
  | notModelled (mnemonic : String)
  /-- Raised by `step` when a second request is presented before the first is answered, to which "the unit gives ... no meaning and a
  model must refuse it" (spec/20_memory.md R57). Safe: nothing is claimed of it. -/
  | overlappingRequests
  deriving DecidableEq, Repr

/-- The state of one unit instance, the inputs it is still to be given, and the model's counter of resets. -/
structure State where
  /-- `HALT` (R35): set by a contract violation, cleared only by reset. -/
  halt : Bool
  /-- `CTL` (R24), the mode register. -/
  ctl : Word
  /-- `FLG` (R30), the accumulated exception flags. -/
  flg : Word
  /-- The input ports, as sampled for the request being answered (R20, log entry 5). -/
  request : Request
  /-- The output ports: the response to the last request, none when there was no request (R20, log entry 5). -/
  response : Option Response
  /-- What the requester and the reset line present next, oldest first (log entry 1). -/
  inputs : List Input
  /-- How many resets have been taken: the index of the free values of a reset (the model's own, log entry 4). -/
  resets : Nat
  /-- Which instance of the unit this is (R23): with `resets`, the index of the free values of a reset (the model's own, log entries 4 and 12). No
  operation writes it. -/
  unitNo : Nat
  deriving DecidableEq, Repr

/-- The state right after reset (R37, R380). `HALT` and the reserved bits are the spec's zeros. The spec leaves `CTL[7:0]` and
`FLG[6:0]` unspecified: DESIGN CHOICE 0 (log entries 2 and 3), on which no statement rests. -/
def State.reset : State :=
  { halt := false, ctl := 0, flg := 0, request := Request.absent, response := none, inputs := [], resets := 0, unitNo := 0 }

end Sys2Proof.Machine
end

