-- ==== Sys2Proof/Machine/Ops.lean ====
section
/-!
DEFINITION. Machine/Ops.lean: the named operations over the unit's registers and ports: reading and writing `CTL` and `FLG`,
sampling a request, giving a response, TAKING A FAULT, the halted answer, and reset, which is the only way back from a contract violation
(spec/60_exceptions.md R350: there is no trap return).
-/

namespace Sys2Proof.Machine

/-- What a meaning answers. -/
abbrev Out := Host.Outcome State Fault Refusal

/-- `CTL` as it reads: bits 31:8 are 0 (spec/10_state.md R24, spec/47_status_ops.md R320). -/
def readCtl (s : State) : Word := (s.ctl.setWidth 8).setWidth 32

/-- `FLG` as it reads: bits 31:7 are 0 (R30, R322). -/
def readFlg (s : State) : Word := (s.flg.setWidth 7).setWidth 32

/-- A write of `CTL`: bits 7:0 are stored unchecked, bits 31:8 stay 0 (R24, R321). -/
def writeCtl (v : Word) (s : State) : State := { s with ctl := (v.setWidth 8).setWidth 32 }

/-- A write of `FLG`: a plain write of bits 6:0, bits 31:7 stay 0 (R323). -/
def writeFlg (v : Word) (s : State) : State := { s with flg := (v.setWidth 7).setWidth 32 }

/-- `setflag(m)`: the only way an operation changes `FLG` (R31). -/
def setflag (m : Flags) (s : State) : State := { s with flg := s.flg ||| m.setWidth 32 }

/-- The ports answer (R20): result, auxiliary result and error code. -/
def respond (r : Wide) (x : Dword) (err : BitVec 2) (s : State) : State := { s with response := some { r := r, x := x, err := err } }

/-- A request completes: its flags are ORed into `FLG` once and its results go out with `ERR = 0` (spec/60_exceptions.md R340, R347 step 4). -/
def answer (r : Wide) (x : Dword) (m : Flags) (s : State) : State := respond r x 0 (setflag m s)

/-- TAKING A FAULT. An illegal command changes no state and answers `ERR = 1` (R346); a contract violation sets `HALT`, changes nothing
else, drops the request's pending flags and answers `ERR = 2` (R344). `R` and `X` are 0 in both. -/
def takeFault (f : Fault) (s : State) : State :=
  match f with
  | .illegalCommand _ => respond 0 0 1 s
  | .contractViolation _ => respond 0 0 2 { s with halt := true }

/-- The answer of a halted unit to any request: `ERR = 2`, `R = X = 0`, nothing changes (R345). -/
def answerHalted (s : State) : State := respond 0 0 2 s

/-- The end of an operation's rule: the fault it raised is taken (R347 step 3), or it completes (R347 step 4) with nothing on `X`. -/
def complete (v : Except ContractCause (Flagged Wide)) (s : State) : Out :=
  match v with
  | .error c => .next (takeFault (.contractViolation c) s)
  | .ok v => .next (answer v.val 0 v.flags s)

/-- The ports sample the request `q` (spec/20_memory.md R54); `rest` is what comes after it. No response stands on the ports until it is given. -/
def accept (q : Request) (rest : List Input) (s : State) : State := { s with request := q, response := none, inputs := rest }

/-- No request is presented: the ports hold nothing and nothing changes (spec/10_state.md R20, R36). -/
def quiet (s : State) : State := { s with request := Request.absent, response := none }

/-- What reset leaves when `CTL[7:0]` and `FLG[6:0]` come up as `c` and `f` (R37, spec/70_reset_and_hazards.md R380). -/
def resetTo (c : BitVec 8) (f : BitVec 7) (rest : List Input) (s : State) : State :=
  { s with halt := false, ctl := c.setWidth 32, flg := f.setWidth 32, request := Request.absent, response := none, inputs := rest }

/-- The reset input acts: `CTL[7:0]` and `FLG[6:0]` take free values, new ones at each reset of each instance, so that nothing relates what two
resets leave, nor what two instances come up with (R381, R355 of spec/60_exceptions.md; that the values are indexed by the number of the instance and
its count of resets is the model's choice, log entry 4). -/
def takeReset (rest : List Input) (s : State) : State :=
  { resetTo (Config.resetCtl s.unitNo s.resets) (Config.resetFlg s.unitNo s.resets) rest s with resets := s.resets + 1 }

end Sys2Proof.Machine
end

