-- ==== Sys2Proof/Machine/Answer.lean ====
section
/-!
DEFINITION. Machine/Answer.lean: how a request is answered and how the next input is taken, in the order of spec/60_exceptions.md R347, given the
instructions' meanings: the argument `run`. A request is indivisible (spec/20_memory.md R57).
-/

namespace Sys2Proof.Machine

/-- One request, already on the ports (R347): the halted answer, or decoding and its fault, or the instruction. -/
def answerRequest (run : Instr → State → Out) (s : State) : Out :=
  if s.halt then .next (answerHalted s)
  else
    match decode s.request.cmd with
    | .error c => .next (takeFault (.illegalCommand c) s)
    | .ok i => run i s

/-- One step. With nothing to take, the unit waits (log entry 1). A request that a reset abandons gives no response and has no effect (R380). -/
def stepBy (run : Instr → State → Out) (s : State) : Out :=
  match s.inputs with
  | [] => .next (quiet s)
  | .reset _ :: rest => .next (takeReset rest s)
  | .overlap _ _ :: _ => .refused .overlappingRequests
  | .request q :: rest => answerRequest run (accept q rest s)

end Sys2Proof.Machine
end

