-- ==== Sys2Proof/Machine/Exact.lean ====
section
/-!
DEFINITION. Machine/Exact.lean: exact arithmetic before rounding (spec/00_scope.md R10, R11): fractions, the jamming shift,
the integer square root. A fraction is not kept in lowest terms: it is compared by value, never by its parts (log entry 15).
-/

namespace Sys2Proof.Machine

/-- An exact rational number `num / den`, `den` positive. -/
structure Frac where
  num : Int
  den : Nat
  deriving DecidableEq, Repr

namespace Frac

/-- The integer `n`. -/
def ofInt (n : Int) : Frac := ⟨n, 1⟩

/-- `x * 2^k`. -/
def scale (x : Frac) : Int → Frac
  | .ofNat k => ⟨x.num * (2 ^ k : Nat), x.den⟩
  | .negSucc k => ⟨x.num, x.den * 2 ^ (k + 1)⟩

/-- `x + y`. -/
def add (x y : Frac) : Frac := ⟨x.num * y.den + y.num * x.den, x.den * y.den⟩

/-- `-x`. -/
def neg (x : Frac) : Frac := ⟨-x.num, x.den⟩

/-- `x * y`. -/
def mul (x y : Frac) : Frac := ⟨x.num * y.num, x.den * y.den⟩

/-- `x / y`, for `y` other than zero. -/
def div (x y : Frac) : Frac := ⟨x.num * y.den * y.num.sign, x.den * y.num.natAbs⟩

/-- `|x|`. -/
def abs (x : Frac) : Frac := ⟨x.num.natAbs, x.den⟩

/-- `x = 0`. -/
def isZero (x : Frac) : Bool := x.num == 0

/-- `x < 0`. -/
def isNeg (x : Frac) : Bool := decide (x.num < 0)

/-- `x < y`. -/
def lt (x y : Frac) : Bool := decide (x.num * y.den < y.num * x.den)

/-- The integer part of `|x|`. -/
def whole (x : Frac) : Nat := x.num.natAbs / x.den

/-- What `|x|` has beyond its integer part, as a numerator over `den`. -/
def rest (x : Frac) : Nat := x.num.natAbs % x.den

/-- The integer part of `|x|` with the tail jammed into bit 0: `floor(t) | (1 if t is not an integer else 0)`
(spec/42_round_pack.md R184, spec/44_convert.md R235). -/
def jam (x : Frac) : Nat := x.whole ||| (if x.rest = 0 then 0 else 1)

/-- The integer nearest to `|x|`, the even one of two equally near (spec/45_arith.md R259). -/
def nearestEven (x : Frac) : Nat :=
  if x.den < 2 * x.rest || (x.den == 2 * x.rest && x.whole % 2 == 1) then x.whole + 1 else x.whole

/-- `floor_log2(x)` for a positive `x` (spec/00_scope.md R11). -/
def floorLog2 (x : Frac) : Int :=
  let k : Int := (x.num.natAbs.log2 : Int) - x.den.log2
  if lt x (scale (ofInt 1) k) then k - 1 else k

end Frac

/-- `msb(x)`, for `x > 0` (R11). -/
def msb (x : Nat) : Nat := x.log2

/-- `shrjam(x, n)`, the jamming right shift (R11). A count above the index of the leading bit leaves the sticky bit alone. -/
def shrjam (x n : Nat) : Nat :=
  if x.log2 < n then (if x = 0 then 0 else 1) else x / 2 ^ n ||| (if x % 2 ^ n = 0 then 0 else 1)

/-- The integer square root, bit by bit: `acc` holds the bits decided so far, `k` more are to be decided. -/
def isqrtBits (n : Nat) : Nat → Nat → Nat
  | 0, acc => acc
  | k + 1, acc => isqrtBits n k (if (acc + 2 ^ k) * (acc + 2 ^ k) ≤ n then acc + 2 ^ k else acc)

/-- The integer square root: the largest `s` with `s * s ≤ n` (spec/45_arith.md R261). -/
def isqrt (n : Nat) : Nat := isqrtBits n (n.log2 / 2 + 1) 0

end Sys2Proof.Machine
end

