-- ==== Sys2Proof/Machine/Formats.lean ====
section
/-!
DEFINITION. Machine/Formats.lean: the five formats (spec/41_pack_unpack.md R140), the fields and classes of a pattern (R141, R142),
the value it stands for (R143), the packer's arithmetic (R148), the named patterns (R144), the integer types (spec/30_encoding.md R72)
and the word counts (R73).
-/

namespace Sys2Proof

/-- Word count of a multi-word operation (R73). -/
def Words.count : Words → Nat
  | .w1 => 1
  | .w2 => 2
  | .w3 => 3
  | .w4 => 4

/-- Width in bits of a value of that many words. -/
def Words.bits (n : Words) : Nat := 64 * n.count

/-- `K`, the total bits of a format (R140). -/
def Fmt.K : Fmt → Nat
  | .f16 => 16
  | .f32 => 32
  | .f64 => 64
  | .f80 => 80
  | .f128 => 128

/-- `EW`, the exponent field's width. -/
def Fmt.EW : Fmt → Nat
  | .f16 => 5
  | .f32 => 8
  | .f64 => 11
  | .f80 => 15
  | .f128 => 15

/-- `M`, the significand field's width; it is also the lowest bit of the exponent field. -/
def Fmt.M : Fmt → Nat
  | .f16 => 10
  | .f32 => 23
  | .f64 => 52
  | .f80 => 64
  | .f128 => 112

/-- Is the integer bit explicit? Only in F80. -/
def Fmt.explicitBit : Fmt → Bool
  | .f80 => true
  | _ => false

/-- `G`, the guard bits of the rounding engine. -/
def Fmt.G : Fmt → Nat
  | .f16 => 7
  | .f32 => 10
  | .f64 => 13
  | .f80 => 63
  | .f128 => 112

/-- `FB`, the fraction bits: `M`, or `M - 1` for F80. -/
def Fmt.FB (F : Fmt) : Nat := if F.explicitBit then F.M - 1 else F.M

/-- `P`, the precision. -/
def Fmt.P (F : Fmt) : Nat := F.FB + 1

/-- `BIAS`, the exponent bias. -/
def Fmt.bias (F : Fmt) : Nat := 2 ^ (F.EW - 1) - 1

/-- `EMAXF`, the all-ones exponent field. -/
def Fmt.emaxf (F : Fmt) : Nat := 2 ^ F.EW - 1

/-- `emin`, the exponent of the smallest normal number and of every subnormal. -/
def Fmt.emin (F : Fmt) : Int := 1 - (F.bias : Int)

/-- `N`, the position of the leading bit of a normalised engine input. -/
def Fmt.N (F : Fmt) : Nat := F.FB + F.G

/-- `W`, the width of an engine input. -/
def Fmt.W (F : Fmt) : Nat := F.N + 2

/-- `QBIT`, the quiet bit: the most significant fraction bit (spec/43_nan_policy.md R201). -/
def Fmt.qbit (F : Fmt) : Nat := F.FB - 1

/-- `w`, the width of an integer type (R72). -/
def IntTy.width : IntTy → Nat
  | .i32 => 32
  | .i64 => 64
  | .u32 => 32
  | .u64 => 64

/-- Is the integer type signed? (R72) -/
def IntTy.signed : IntTy → Bool
  | .i32 => true
  | .i64 => true
  | .u32 => false
  | .u64 => false

namespace Machine

/-- The sign bit of a pattern (R141). -/
def sign (F : Fmt) (a : Pat) : Bool := a.getLsbD (F.K - 1)

/-- The exponent field (R141): bits `K-2:M`. -/
def expf (F : Fmt) (a : Pat) : Nat := a.toNat / 2 ^ F.M % 2 ^ F.EW

/-- The significand field (R141): bits `M-1:0`. -/
def sigf (F : Fmt) (a : Pat) : Nat := a.toNat % 2 ^ F.M

/-- The fraction (R141): the significand field less the integer bit of F80. -/
def frac (F : Fmt) (a : Pat) : Nat := a.toNat % 2 ^ F.FB

/-- Class zero (R142). -/
def isZero (F : Fmt) (a : Pat) : Bool := expf F a == 0 && sigf F a == 0

/-- Class subnormal (R142); an F80 pseudo-denormal is in it. -/
def isSubnormal (F : Fmt) (a : Pat) : Bool := expf F a == 0 && sigf F a != 0

/-- Class infinity (R142); F80's integer bit is ignored. -/
def isInf (F : Fmt) (a : Pat) : Bool := expf F a == F.emaxf && frac F a == 0

/-- Class NaN (R142); F80's integer bit is ignored. -/
def isNaN (F : Fmt) (a : Pat) : Bool := expf F a == F.emaxf && frac F a != 0

/-- Class normal (R142); an F80 unnormal is in it. -/
def isNormal (F : Fmt) (a : Pat) : Bool := expf F a != 0 && expf F a != F.emaxf

/-- The integer significand of a finite pattern, the implicit bit restored where there is one (R143). -/
def magSig (F : Fmt) (a : Pat) : Nat :=
  if F.explicitBit then sigf F a else if expf F a = 0 then sigf F a else 2 ^ F.FB + sigf F a

/-- The exponent of two that scales `magSig` (R143): the field 0 scales like the field 1. -/
def magExp (F : Fmt) (a : Pat) : Int := (max (expf F a) 1 : Nat) - (F.bias : Int) - F.FB

/-- `Val(F, a)` of a finite pattern, exactly (R143). -/
def val (F : Fmt) (a : Pat) : Frac :=
  Frac.scale (if sign F a then ⟨-(magSig F a : Int), 1⟩ else ⟨magSig F a, 1⟩) (magExp F a)

/-- `|Val(F, a)|`. -/
def mag (F : Fmt) (a : Pat) : Frac := Frac.scale ⟨magSig F a, 1⟩ (magExp F a)

/-- `Val(F, a) = 0`, for a finite pattern: for the implicit formats class zero, for F80 any all-zero significand (R143, spec/45_arith.md R251). -/
def isValZero (F : Fmt) (a : Pat) : Bool := magSig F a == 0

/-- `PACK.F`: shift-and-add, no range check (R148). -/
def pack (F : Fmt) (sgn : Bool) (exp sig : Nat) : Pat :=
  if F.explicitBit then
    BitVec.ofNat 128 ((sgn.toNat * 2 ^ 15 + exp) % 2 ^ 16 * 2 ^ 64 + sig % 2 ^ 64)
  else
    BitVec.ofNat 128 ((sgn.toNat * 2 ^ (F.K - 1) + exp * 2 ^ F.M + sig) % 2 ^ F.K)

/-- `Zero(F, s)` (R144). -/
def zero (F : Fmt) (s : Bool) : Pat := pack F s 0 0

/-- `Inf(F, s)` (R144): for F80 with an all-zero significand. -/
def inf (F : Fmt) (s : Bool) : Pat := pack F s F.emaxf 0

/-- `MaxFinite(F, s)` (R144). -/
def maxFinite (F : Fmt) (s : Bool) : Pat := pack F s (F.emaxf - 1) (2 ^ F.M - 1)

/-- The pattern with its sign bit inverted. -/
def negate (F : Fmt) (a : Pat) : Pat := a ^^^ BitVec.ofNat 128 (2 ^ (F.K - 1))

/-- `IntVal(T, x)` of the pattern `x < 2^w` (spec/44_convert.md R232). -/
def intVal (T : IntTy) (x : Nat) : Int :=
  if T.signed && decide (2 ^ (T.width - 1) ≤ x) then (x : Int) - (2 ^ T.width : Nat) else x

/-- `IMAX(T)` as a `w`-bit pattern (R232). -/
def intMax (T : IntTy) : Nat := if T.signed then 2 ^ (T.width - 1) - 1 else 2 ^ T.width - 1

/-- `IMIN(T)` as a `w`-bit pattern (R232). -/
def intMin (T : IntTy) : Nat := if T.signed then 2 ^ (T.width - 1) else 0

end Machine

end Sys2Proof
end

