-- ==== Sys2Proof/Machine/Engine.lean ====
section
/-!
DEFINITION. Machine/Engine.lean: the mode register's fields as the operations consult them (spec/10_state.md R24 to R29), and the rounding
and normalisation engine (spec/42_round_pack.md): `RPACK` (R171, with R181 for F80), `NRPACK` (R183), `RoundPack` (R184), `RoundPackFull`
(spec/44_convert.md R230), `RPACKI` (R185) and `PackExact` (spec/45_arith.md R253).
-/

namespace Sys2Proof.Machine

/-- The six rounding modes (R25). -/
inductive RMode where
  | ne
  | na
  | tz
  | tp
  | tn
  | odd
  deriving DecidableEq, Repr

/-- `CTL.RM`, the code in bits 2:0 (R24). -/
def ctlRM (ctl : Word) : Nat := ctl.toNat % 8

/-- `CTL.TIN`, bit 3: tininess is detected after rounding (R24, R26). -/
def ctlTIN (ctl : Word) : Bool := ctl.getLsbD 3

/-- `CTL.FTZ`, bit 4: flush results in the subnormal range to zero (R24, R27). -/
def ctlFTZ (ctl : Word) : Bool := ctl.getLsbD 4

/-- `CTL.FIZ`, bit 5: replace subnormal operands by zero (R24, R28). -/
def ctlFIZ (ctl : Word) : Bool := ctl.getLsbD 5

/-- `CTL.RP`, the code in bits 7:6 (R24, R29). -/
def ctlRP (ctl : Word) : Nat := ctl.toNat / 64 % 4

/-- The mode that a code of `CTL.RM` names; 6 and 7 are reserved (R25). -/
def modeOf : Nat → Option RMode
  | 0 => some .ne
  | 1 => some .na
  | 2 => some .tz
  | 3 => some .tp
  | 4 => some .tn
  | 5 => some .odd
  | _ => none

/-- Consulting the rounding mode: a reserved code is a contract violation (R25, R171 step S0). -/
def readMode (ctl : Word) : Except ContractCause RMode :=
  match modeOf (ctlRM ctl) with
  | some m => .ok m
  | none => .error .badRoundingMode

/-- `Ge`, the bits that an engine rounding discards: `G(F)`, for F80 by `CTL.RP`, whose code 3 is a contract violation (R29, R181). -/
def readGuard (ctl : Word) (F : Fmt) : Except ContractCause Nat :=
  if F.explicitBit then
    match ctlRP ctl with
    | 0 => .ok 63
    | 1 => .ok 74
    | 2 => .ok 103
    | _ => .error .badRoundingPrecision
  else .ok F.G

/-- The round increment (R171 step S1, R172), with `Ge` bits to be discarded. -/
def roundInc (mode : RMode) (sgn : Bool) (Ge : Nat) : Nat :=
  match mode with
  | .ne => 2 ^ (Ge - 1)
  | .na => 2 ^ (Ge - 1)
  | .tz => 0
  | .odd => 0
  | .tp => if sgn then 0 else 2 ^ Ge - 1
  | .tn => if sgn then 2 ^ Ge - 1 else 0

/-- The rounding itself (R171 step S5, R177): the significand with its low `Ge` bits rounded off. -/
def roundSig (mode : RMode) (sgn : Bool) (Ge : Nat) (sig : Nat) : Nat :=
  let roundBits := sig % 2 ^ Ge
  match mode with
  | .odd => sig / 2 ^ Ge ||| (if roundBits = 0 then 0 else 1)
  | .ne =>
    let q := (sig + roundInc mode sgn Ge) / 2 ^ Ge
    if roundBits = 2 ^ (Ge - 1) then q / 2 * 2 else q
  | _ => (sig + roundInc mode sgn Ge) / 2 ^ Ge

/-- Does an overflow give infinity in this mode, for this sign? (R171, R175) -/
def overflowToInf (mode : RMode) (sgn : Bool) : Bool :=
  match mode with
  | .ne => true
  | .na => true
  | .tz => false
  | .odd => false
  | .tp => !sgn
  | .tn => sgn

/-- The largest finite value at the precision of the rounding (R171, R181). -/
def maxFiniteAt (F : Fmt) (sgn : Bool) (Ge : Nat) : Pat :=
  if F.explicitBit then pack F sgn (F.emaxf - 1) ((2 ^ (F.N - Ge + 1) - 1) * 2 ^ (Ge - 63)) else maxFinite F sgn

/-- `Finish` (R171 step S8, R178, R181): the rounded significand and its exponent packed; for F80 the carry and the integer bit are done by hand. -/
def finish (F : Fmt) (sgn : Bool) (exp q Ge : Nat) : Pat :=
  if F.explicitBit then
    let q64 := q * 2 ^ (Ge - 63)
    pack F sgn (exp + q64 / 2 ^ 63) (if 2 ^ 64 ≤ q64 then 2 ^ 63 else q64)
  else pack F sgn exp q

/-- Steps S1 to S8 of R171, with the mode and `Ge` already read. -/
def roundPackWith (F : Fmt) (Ge : Nat) (mode : RMode) (tin ftz : Bool) (sgn : Bool) (zExp : Int) (zSig : Nat) : Flagged Pat :=
  let inc := roundInc mode sgn Ge
  if (F.emaxf : Int) - 2 < zExp ∨ (zExp = (F.emaxf : Int) - 2 ∧ 2 ^ (F.N + 1) ≤ zSig + inc) then
    { val := if overflowToInf mode sgn then inf F sgn else maxFiniteAt F sgn Ge, flags := Flag.overflow ||| Flag.inexact }
  else if zExp < 0 ∧ ftz = true then
    { val := zero F sgn, flags := Flag.outputDenormal }
  else
    let isTiny := decide (zExp < 0) && (!tin || decide (zExp < -1) || decide (zSig + inc < 2 ^ (F.N + 1)))
    let sig := if zExp < 0 then shrjam zSig (-zExp).toNat else zSig
    let roundBits := sig % 2 ^ Ge
    let q := roundSig mode sgn Ge sig
    { val := finish F sgn (if q = 0 then 0 else zExp.toNat) q Ge
      flags := flagIf (isTiny && roundBits != 0) Flag.underflow ||| flagIf (roundBits != 0) Flag.inexact }

/-- `RPACK.F` (R171): step S0, then the rest. -/
def rpack (ctl : Word) (F : Fmt) (sgn : Bool) (zExp : Int) (zSig : Nat) : Except ContractCause (Flagged Pat) :=
  match readMode ctl with
  | .error c => .error c
  | .ok mode =>
    match readGuard ctl F with
    | .error c => .error c
    | .ok Ge => .ok (roundPackWith F Ge mode (ctlTIN ctl) (ctlFTZ ctl) sgn zExp zSig)

/-- `RPACK.F` at the format's full precision: `CTL.RP` is not read (spec/44_convert.md R230). -/
def rpackFull (ctl : Word) (F : Fmt) (sgn : Bool) (zExp : Int) (zSig : Nat) : Except ContractCause (Flagged Pat) :=
  match readMode ctl with
  | .error c => .error c
  | .ok mode => .ok (roundPackWith F F.G mode (ctlTIN ctl) (ctlFTZ ctl) sgn zExp zSig)

/-- `NRPACK.F` (R183): step S0 first, also for a zero significand, of which nothing else is checked (log entry 18). -/
def nrpack (ctl : Word) (F : Fmt) (sgn : Bool) (zExp : Int) (zSig : Nat) : Except ContractCause (Flagged Pat) :=
  match rpack ctl F sgn (zExp - (F.N - msb zSig : Nat)) (zSig * 2 ^ (F.N - msb zSig)) with
  | .error c => .error c
  | .ok v => .ok (if zSig = 0 then { val := zero F sgn, flags := 0 } else v)

/-- `ToEngine(F, r)` of a positive `r` (R184): the canonical engine input, the tail jammed into bit 0. -/
def toEngine (F : Fmt) (r : Frac) : Int × Nat :=
  let e := r.floorLog2
  (e + F.bias - 1, (r.scale (F.N - e)).jam)

/-- `RoundPack(F, sign, r)` (R184). -/
def roundPack (ctl : Word) (F : Fmt) (sgn : Bool) (r : Frac) : Except ContractCause (Flagged Pat) :=
  rpack ctl F sgn (toEngine F r).1 (toEngine F r).2

/-- `RoundPackFull(F, sign, r)` (R230). -/
def roundPackFull (ctl : Word) (F : Fmt) (sgn : Bool) (r : Frac) : Except ContractCause (Flagged Pat) :=
  rpackFull ctl F sgn (toEngine F r).1 (toEngine F r).2

/-- `PackExact(F, sign, r)`, for an `r` exactly representable in `F` (R253): no flag, no mode check. -/
def packExact (F : Fmt) (sgn : Bool) (r : Frac) : Pat :=
  let z := toEngine F r
  finish F sgn z.1.toNat (z.2 / 2 ^ (F.G + (-z.1).toNat)) F.G

/-- `RPACKI.T` (R185) in a given mode: a 64.64 fixed-point magnitude rounded to an integer of type `T`, as a `w`-bit pattern, with saturation. -/
def rpackiWith (mode : RMode) (T : IntTy) (sgn : Bool) (absZ : Nat) : Flagged Nat :=
  let roundBits := absZ % 2 ^ 64
  let q := roundSig mode sgn 64 absZ
  if T.signed && !sgn && decide (2 ^ (T.width - 1) - 1 < q) then { val := 2 ^ (T.width - 1) - 1, flags := Flag.invalid }
  else if T.signed && sgn && decide (2 ^ (T.width - 1) < q) then { val := 2 ^ (T.width - 1), flags := Flag.invalid }
  else if !T.signed && sgn && q != 0 then { val := 0, flags := Flag.invalid }
  else if !T.signed && decide (2 ^ T.width - 1 < q) then { val := 2 ^ T.width - 1, flags := Flag.invalid }
  else { val := if sgn then (2 ^ T.width - q) % 2 ^ T.width else q, flags := flagIf (roundBits != 0) Flag.inexact }

/-- `RPACKI.T` (R185): `CTL.RM` is all it reads of `CTL`. -/
def rpacki (ctl : Word) (T : IntTy) (sgn : Bool) (absZ : Nat) : Except ContractCause (Flagged Nat) :=
  match readMode ctl with
  | .error c => .error c
  | .ok mode => .ok (rpackiWith mode T sgn absZ)

end Sys2Proof.Machine
end

