-- ==== Sys2Proof/Machine/Operands.lean ====
section
/-!
DEFINITION. Machine/Operands.lean: every operand form (spec/30_encoding.md R75, R77) read from the ports of the request being answered,
and a result laid out on port `R`. No form reads a bit that R75 does not list (spec/10_state.md R20).
-/

namespace Sys2Proof.Machine

/-- `A[k-1:0]` as an unsigned integer. -/
def bitsA (k : Nat) (s : State) : Nat := s.request.a.toNat % 2 ^ k

/-- `B[k-1:0]` as an unsigned integer. -/
def bitsB (k : Nat) (s : State) : Nat := s.request.b.toNat % 2 ^ k

/-- A multi-word operand of `n` words on `A`. -/
def wordsA (n : Words) (s : State) : Nat := bitsA n.bits s

/-- A multi-word operand of `n` words on `B`. -/
def wordsB (n : Words) (s : State) : Nat := bitsB n.bits s

/-- A shift count, `B[63:0]`, unsigned (R77). -/
def shiftCount (s : State) : Nat := bitsB 64 s

/-- A floating-point operand on `A`: its low `K` bits. -/
def patA (F : Fmt) (s : State) : Pat := (s.request.a.setWidth F.K).setWidth 128

/-- A floating-point operand on `B`. -/
def patB (F : Fmt) (s : State) : Pat := (s.request.b.setWidth F.K).setWidth 128

/-- A floating-point operand on `C`. -/
def patC (F : Fmt) (s : State) : Pat := (s.request.c.setWidth F.K).setWidth 128

/-- An engine exponent or a scale amount: `sint_32(B[31:0])` (R77). -/
def sint32B (s : State) : Int := (s.request.b.setWidth 32).toInt

/-- The unsigned exponent operand of `PACK`: `B[31:0]` (spec/41_pack_unpack.md R148). -/
def uint32B (s : State) : Nat := bitsB 32 s

/-- The sign operand of `PACK` and of an engine input: `B[32]`. -/
def signB (s : State) : Bool := s.request.b.getLsbD 32

/-- The register operand of `WRCTL` and `WRFLG`: `A[31:0]` (spec/47_status_ops.md R321, R323). -/
def wordA (s : State) : Word := s.request.a.setWidth 32

/-- A floating-point result on `R`: its low `K` bits, zeros above (spec/20_memory.md R51). -/
def outPat (F : Fmt) (p : Pat) : Wide := (p.setWidth F.K).setWidth 256

/-- An unsigned result of `k` bits on `R`, zeros above. -/
def outBits (k : Nat) (n : Nat) : Wide := BitVec.ofNat 256 (n % 2 ^ k)

/-- A one-bit verdict on `R[0]`. -/
def outBool (b : Bool) : Wide := if b then 1 else 0

end Sys2Proof.Machine
end

