-- ==== Sys2Proof/Machine/Nan.lean ====
section
/-!
DEFINITION. Machine/Nan.lean: the NaN policy module (spec/43_nan_policy.md). Every function takes the policy as an argument; the
unit modelled is built with `nanPolicy`, the spec's default for each member (spec/00_scope.md R7; log entry 9).
-/

namespace Sys2Proof.Machine

open Sys2Proof.Config (NanPolicy Pick)

/-- `2^QBIT(F)`, the quiet bit's mask (R201). -/
def quietMask (F : Fmt) : Pat := BitVec.ofNat 128 (2 ^ F.qbit)

/-- `is_signaling` at its default: the quiet bit is clear (R202). -/
def defaultIsSignaling (F : Fmt) (a : Pat) : Bool := !a.getLsbD F.qbit

/-- `quieten` at its default: the quiet bit is set, everything else kept (R203). -/
def defaultQuieten (F : Fmt) (a : Pat) : Pat := a ||| quietMask F

/-- `choose2` at its default: the first operand that is a NaN (R206). -/
def defaultChoose2 (F : Fmt) (a b : Pat) : Pick :=
  if isNaN F a then .first else if isNaN F b then .second else .default

/-- `choose3` at its default: the first NaN operand in the order a, b, c (R207). -/
def defaultChoose3 (F : Fmt) (a b c : Pat) : Pick :=
  if isNaN F a then .first else if isNaN F b then .second else if isNaN F c then .third else .default

/-- `default_nan(F)` at its default (R208): sign 0, exponent all ones, the quiet bit, and for F80 the integer bit. -/
def defaultDefaultNan : Fmt → Pat
  | .f16 => 0x7E00
  | .f32 => 0x7FC00000
  | .f64 => 0x7FF8000000000000
  | .f80 => 0x7FFFC000000000000000
  | .f128 => 0x7FFF8000000000000000000000000000

/-- `NAN_POLICY` of the unit modelled: the spec's default of every member (R7). -/
def nanPolicy : NanPolicy :=
  { isSignaling := defaultIsSignaling
    quieten := defaultQuieten
    choose2 := defaultChoose2
    choose3 := defaultChoose3
    infzeroInvalid := false
    defaultNan := defaultDefaultNan }

/-- `IsSNaN(F, a)` (R202). -/
def isSNaN (pol : NanPolicy) (F : Fmt) (a : Pat) : Bool := isNaN F a && pol.isSignaling F a

/-- `IsQNaN(F, a)` (R202). -/
def isQNaN (pol : NanPolicy) (F : Fmt) (a : Pat) : Bool := isNaN F a && !pol.isSignaling F a

/-- The pattern a policy's choice stands for: the chosen operand, quieted, or the default NaN. -/
def picked (pol : NanPolicy) (F : Fmt) (a b c : Pat) : Pick → Pat
  | .first => pol.quieten F a
  | .second => pol.quieten F b
  | .third => pol.quieten F c
  | .default => pol.defaultNan F

/-- `PropNaN2(F, a, b)` (R206). With no NaN operand it is the default NaN, and the policy is not asked (log entry 10). -/
def propNaN2 (pol : NanPolicy) (F : Fmt) (a b : Pat) : Flagged Pat :=
  { val := if isNaN F a || isNaN F b then picked pol F a b b (pol.choose2 F a b) else pol.defaultNan F
    flags := flagIf (isSNaN pol F a || isSNaN pol F b) Flag.invalid }

/-- `PropNaN1(F, a) = PropNaN2(F, a, a)` (R206). -/
def propNaN1 (pol : NanPolicy) (F : Fmt) (a : Pat) : Flagged Pat := propNaN2 pol F a a

/-- `PropNaN3(F, a, b, c, infzero)` (R207). -/
def propNaN3 (pol : NanPolicy) (F : Fmt) (a b c : Pat) (infzero : Bool) : Flagged Pat :=
  let signaling := flagIf (isSNaN pol F a || isSNaN pol F b || isSNaN pol F c) Flag.invalid
  if infzero && pol.infzeroInvalid then { val := pol.defaultNan F, flags := signaling ||| Flag.invalid }
  else
    { val := if isNaN F a || isNaN F b || isNaN F c then picked pol F a b c (pol.choose3 F a b c) else pol.defaultNan F
      flags := signaling }

/-- The default NaN with `INVALID`: what an invalid operation without a NaN operand returns (R208, spec/60_exceptions.md R343). -/
def invalidNaN (pol : NanPolicy) (F : Fmt) : Flagged Pat := { val := pol.defaultNan F, flags := Flag.invalid }

/-- A result with no flag. -/
def quietly (a : Pat) : Flagged Pat := { val := a, flags := 0 }

/-- The end of a rule whose result is a pattern of format `F`. -/
def completePat (F : Fmt) (v : Except ContractCause (Flagged Pat)) (s : State) : Out := complete (v.map (Flagged.map (outPat F))) s

/-- `ISSNAN.F` (R204). -/
def issnan (pol : NanPolicy) (F : Fmt) (s : State) : Out := .next (answer (outBool (isSNaN pol F (patA F s))) 0 0 s)

/-- `ISQNAN.F` (R205). -/
def isqnan (pol : NanPolicy) (F : Fmt) (s : State) : Out := .next (answer (outBool (isQNaN pol F (patA F s))) 0 0 s)

/-- `PROPNAN.F` (R206). -/
def propnan (pol : NanPolicy) (F : Fmt) (s : State) : Out := completePat F (.ok (propNaN2 pol F (patA F s) (patB F s))) s

/-- `PROPNAN3.F` (R207). -/
def propnan3 (pol : NanPolicy) (F : Fmt) (infzero : Bool) (s : State) : Out :=
  completePat F (.ok (propNaN3 pol F (patA F s) (patB F s) (patC F s) infzero)) s

/-- `DEFNAN.F` (R208). -/
def defnan (pol : NanPolicy) (F : Fmt) (s : State) : Out := completePat F (.ok (quietly (pol.defaultNan F))) s

/-- `ISSNAN.F16` (R204). -/
def execIssnanF16 (s : State) : Out := issnan nanPolicy .f16 s

/-- `ISSNAN.F32` (R204). -/
def execIssnanF32 (s : State) : Out := issnan nanPolicy .f32 s

/-- `ISSNAN.F64` (R204). -/
def execIssnanF64 (s : State) : Out := issnan nanPolicy .f64 s

/-- `ISSNAN.F80` (R204). -/
def execIssnanF80 (s : State) : Out := issnan nanPolicy .f80 s

/-- `ISSNAN.F128` (R204). -/
def execIssnanF128 (s : State) : Out := issnan nanPolicy .f128 s

/-- `ISQNAN.F16` (R205). -/
def execIsqnanF16 (s : State) : Out := isqnan nanPolicy .f16 s

/-- `ISQNAN.F32` (R205). -/
def execIsqnanF32 (s : State) : Out := isqnan nanPolicy .f32 s

/-- `ISQNAN.F64` (R205). -/
def execIsqnanF64 (s : State) : Out := isqnan nanPolicy .f64 s

/-- `ISQNAN.F80` (R205). -/
def execIsqnanF80 (s : State) : Out := isqnan nanPolicy .f80 s

/-- `ISQNAN.F128` (R205). -/
def execIsqnanF128 (s : State) : Out := isqnan nanPolicy .f128 s

/-- `PROPNAN.F16` (R206). -/
def execPropnanF16 (s : State) : Out := propnan nanPolicy .f16 s

/-- `PROPNAN.F32` (R206). -/
def execPropnanF32 (s : State) : Out := propnan nanPolicy .f32 s

/-- `PROPNAN.F64` (R206). -/
def execPropnanF64 (s : State) : Out := propnan nanPolicy .f64 s

/-- `PROPNAN.F80` (R206). -/
def execPropnanF80 (s : State) : Out := propnan nanPolicy .f80 s

/-- `PROPNAN.F128` (R206). -/
def execPropnanF128 (s : State) : Out := propnan nanPolicy .f128 s

/-- `PROPNAN3.F16` (R207). -/
def execPropnan3F16 (infzero : Bool) (s : State) : Out := propnan3 nanPolicy .f16 infzero s

/-- `PROPNAN3.F32` (R207). -/
def execPropnan3F32 (infzero : Bool) (s : State) : Out := propnan3 nanPolicy .f32 infzero s

/-- `PROPNAN3.F64` (R207). -/
def execPropnan3F64 (infzero : Bool) (s : State) : Out := propnan3 nanPolicy .f64 infzero s

/-- `PROPNAN3.F80` (R207). -/
def execPropnan3F80 (infzero : Bool) (s : State) : Out := propnan3 nanPolicy .f80 infzero s

/-- `PROPNAN3.F128` (R207). -/
def execPropnan3F128 (infzero : Bool) (s : State) : Out := propnan3 nanPolicy .f128 infzero s

/-- `DEFNAN.F16` (R208). -/
def execDefnanF16 (s : State) : Out := defnan nanPolicy .f16 s

/-- `DEFNAN.F32` (R208). -/
def execDefnanF32 (s : State) : Out := defnan nanPolicy .f32 s

/-- `DEFNAN.F64` (R208). -/
def execDefnanF64 (s : State) : Out := defnan nanPolicy .f64 s

/-- `DEFNAN.F80` (R208). -/
def execDefnanF80 (s : State) : Out := defnan nanPolicy .f80 s

/-- `DEFNAN.F128` (R208). -/
def execDefnanF128 (s : State) : Out := defnan nanPolicy .f128 s

end Sys2Proof.Machine
end

