-- ==== Sys2Proof/Machine/RoundPack.lean ====
section
/-!
DEFINITION. Machine/RoundPack.lean: the engine's operations at the ports (spec/42_round_pack.md R170, R171, R183, R185): an engine input is
`zSig = A[W-1:0]`, `zExp = sint_32(B[31:0])`, `sign = B[32]`. An input outside R170's `PRE` runs through the same listing (R180).
-/

namespace Sys2Proof.Machine

/-- `RPACK.F` (R171). -/
def rpackOp (F : Fmt) (s : State) : Out := completePat F (rpack s.ctl F (signB s) (sint32B s) (bitsA F.W s)) s

/-- `NRPACK.F` (R183). -/
def nrpackOp (F : Fmt) (s : State) : Out := completePat F (nrpack s.ctl F (signB s) (sint32B s) (bitsA F.W s)) s

/-- The end of a rule whose result is an integer of type `T`. -/
def completeInt (T : IntTy) (v : Except ContractCause (Flagged Nat)) (s : State) : Out := complete (v.map (Flagged.map (outBits T.width))) s

/-- `RPACKI.T` (R185). -/
def rpackiOp (T : IntTy) (s : State) : Out := completeInt T (rpacki s.ctl T (signB s) (bitsA 128 s)) s

/-- `RPACK.F16` (R171). -/
def execRpackF16 (s : State) : Out := rpackOp .f16 s

/-- `RPACK.F32` (R171). -/
def execRpackF32 (s : State) : Out := rpackOp .f32 s

/-- `RPACK.F64` (R171). -/
def execRpackF64 (s : State) : Out := rpackOp .f64 s

/-- `RPACK.F80` (R171). -/
def execRpackF80 (s : State) : Out := rpackOp .f80 s

/-- `RPACK.F128` (R171). -/
def execRpackF128 (s : State) : Out := rpackOp .f128 s

/-- `NRPACK.F16` (R183). -/
def execNrpackF16 (s : State) : Out := nrpackOp .f16 s

/-- `NRPACK.F32` (R183). -/
def execNrpackF32 (s : State) : Out := nrpackOp .f32 s

/-- `NRPACK.F64` (R183). -/
def execNrpackF64 (s : State) : Out := nrpackOp .f64 s

/-- `NRPACK.F80` (R183). -/
def execNrpackF80 (s : State) : Out := nrpackOp .f80 s

/-- `NRPACK.F128` (R183). -/
def execNrpackF128 (s : State) : Out := nrpackOp .f128 s

/-- `RPACKI.I32` (R185). -/
def execRpackiI32 (s : State) : Out := rpackiOp .i32 s

/-- `RPACKI.I64` (R185). -/
def execRpackiI64 (s : State) : Out := rpackiOp .i64 s

/-- `RPACKI.U32` (R185). -/
def execRpackiU32 (s : State) : Out := rpackiOp .u32 s

/-- `RPACKI.U64` (R185). -/
def execRpackiU64 (s : State) : Out := rpackiOp .u64 s

end Sys2Proof.Machine
end

