-- ==== Sys2Proof/Machine/Convert.lean ====
section
/-!
DEFINITION. Machine/Convert.lean: flush-inputs-to-zero (spec/41_pack_unpack.md R152) and the conversions (spec/44_convert.md).
-/

namespace Sys2Proof.Machine

open Sys2Proof.Config (NanPolicy)

/-- `Squash(F, a)`: with `CTL.FIZ = 1` a subnormal operand is replaced by a zero of its sign (R152). -/
def squash (ctl : Word) (F : Fmt) (a : Pat) : Pat := if ctlFIZ ctl && isSubnormal F a then zero F (sign F a) else a

/-- The flag that `Squash(F, a)` sets (R152). -/
def squashFlag (ctl : Word) (F : Fmt) (a : Pat) : Flags := flagIf (ctlFIZ ctl && isSubnormal F a) Flag.inputDenormal

/-- `I2F.F.T` of the `w`-bit pattern `x` (R231). -/
def i2f (ctl : Word) (F : Fmt) (T : IntTy) (x : Nat) : Except ContractCause (Flagged Pat) :=
  let v := intVal T x
  if v = 0 then .ok (quietly (zero F false)) else roundPackFull ctl F (decide (v < 0)) (Frac.ofInt v).abs

/-- `F2I.F.T` after `Squash`, in the mode of `.RZ` or of `CTL.RM` (R235, R236). -/
def f2iSquashed (ctl : Word) (F : Fmt) (T : IntTy) (rz : Bool) (a : Pat) : Except ContractCause (Flagged Nat) :=
  if isNaN F a then .ok { val := intMax T, flags := Flag.invalid }
  else
    match (if rz then .ok .tz else readMode ctl) with
    | .error c => .error c
    | .ok mode =>
      if isInf F a || !(mag F a).lt (Frac.ofInt (2 ^ 64)) then
        .ok { val := if sign F a then intMin T else intMax T, flags := Flag.invalid }
      else .ok (rpackiWith mode T (sign F a) ((mag F a).scale 64).jam)

/-- `F2I.F.T` (R235). -/
def f2i (ctl : Word) (F : Fmt) (T : IntTy) (rz : Bool) (a : Pat) : Except ContractCause (Flagged Nat) :=
  (f2iSquashed ctl F T rz (squash ctl F a)).map (Flagged.raise (squashFlag ctl F a))

/-- `NaNConvert(F, F', a)`: the fraction kept left-aligned, always quiet, the sign kept (R241). -/
def nanConvert (F F' : Fmt) (a : Pat) : Pat :=
  let f := if F.FB ≤ F'.FB then frac F a * 2 ^ (F'.FB - F.FB) else frac F a / 2 ^ (F.FB - F'.FB)
  pack F' (sign F a) F'.emaxf (f ||| 2 ^ F'.qbit ||| (if F'.explicitBit then 2 ^ 63 else 0))

/-- `F2F.F.F'` after `Squash` (R240). -/
def f2fSquashed (pol : NanPolicy) (ctl : Word) (F F' : Fmt) (a : Pat) : Except ContractCause (Flagged Pat) :=
  if isNaN F a then .ok { val := nanConvert F F' a, flags := flagIf (isSNaN pol F a) Flag.invalid }
  else if isInf F a then .ok (quietly (inf F' (sign F a)))
  else if isValZero F a then .ok (quietly (zero F' (sign F a)))
  else roundPackFull ctl F' (sign F a) (mag F a)

/-- `F2F.F.F'` (R240). -/
def f2f (pol : NanPolicy) (ctl : Word) (F F' : Fmt) (a : Pat) : Except ContractCause (Flagged Pat) :=
  (f2fSquashed pol ctl F F' (squash ctl F a)).map (Flagged.raise (squashFlag ctl F a))

/-- `I2F.F.T` at the ports. -/
def i2fOp (F : Fmt) (T : IntTy) (s : State) : Out := completePat F (i2f s.ctl F T (bitsA T.width s)) s

/-- `F2I.F.T` at the ports. -/
def f2iOp (F : Fmt) (T : IntTy) (rz : Bool) (s : State) : Out := completeInt T (f2i s.ctl F T rz (patA F s)) s

/-- `F2F.F.F'` at the ports. -/
def f2fOp (pol : NanPolicy) (F F' : Fmt) (s : State) : Out := completePat F' (f2f pol s.ctl F F' (patA F s)) s

/-- `I2F.F16.I32` (R231). -/
def execI2fF16I32 (s : State) : Out := i2fOp .f16 .i32 s

/-- `I2F.F16.I64` (R231). -/
def execI2fF16I64 (s : State) : Out := i2fOp .f16 .i64 s

/-- `I2F.F16.U32` (R231). -/
def execI2fF16U32 (s : State) : Out := i2fOp .f16 .u32 s

/-- `I2F.F16.U64` (R231). -/
def execI2fF16U64 (s : State) : Out := i2fOp .f16 .u64 s

/-- `I2F.F32.I32` (R231). -/
def execI2fF32I32 (s : State) : Out := i2fOp .f32 .i32 s

/-- `I2F.F32.I64` (R231). -/
def execI2fF32I64 (s : State) : Out := i2fOp .f32 .i64 s

/-- `I2F.F32.U32` (R231). -/
def execI2fF32U32 (s : State) : Out := i2fOp .f32 .u32 s

/-- `I2F.F32.U64` (R231). -/
def execI2fF32U64 (s : State) : Out := i2fOp .f32 .u64 s

/-- `I2F.F64.I32` (R231). -/
def execI2fF64I32 (s : State) : Out := i2fOp .f64 .i32 s

/-- `I2F.F64.I64` (R231). -/
def execI2fF64I64 (s : State) : Out := i2fOp .f64 .i64 s

/-- `I2F.F64.U32` (R231). -/
def execI2fF64U32 (s : State) : Out := i2fOp .f64 .u32 s

/-- `I2F.F64.U64` (R231). -/
def execI2fF64U64 (s : State) : Out := i2fOp .f64 .u64 s

/-- `I2F.F80.I32` (R231). -/
def execI2fF80I32 (s : State) : Out := i2fOp .f80 .i32 s

/-- `I2F.F80.I64` (R231). -/
def execI2fF80I64 (s : State) : Out := i2fOp .f80 .i64 s

/-- `I2F.F80.U32` (R231). -/
def execI2fF80U32 (s : State) : Out := i2fOp .f80 .u32 s

/-- `I2F.F80.U64` (R231). -/
def execI2fF80U64 (s : State) : Out := i2fOp .f80 .u64 s

/-- `I2F.F128.I32` (R231). -/
def execI2fF128I32 (s : State) : Out := i2fOp .f128 .i32 s

/-- `I2F.F128.I64` (R231). -/
def execI2fF128I64 (s : State) : Out := i2fOp .f128 .i64 s

/-- `I2F.F128.U32` (R231). -/
def execI2fF128U32 (s : State) : Out := i2fOp .f128 .u32 s

/-- `I2F.F128.U64` (R231). -/
def execI2fF128U64 (s : State) : Out := i2fOp .f128 .u64 s

/-- `F2I.F16.I32` (R235). -/
def execF2iF16I32 (rz : Bool) (s : State) : Out := f2iOp .f16 .i32 rz s

/-- `F2I.F16.I64` (R235). -/
def execF2iF16I64 (rz : Bool) (s : State) : Out := f2iOp .f16 .i64 rz s

/-- `F2I.F16.U32` (R235). -/
def execF2iF16U32 (rz : Bool) (s : State) : Out := f2iOp .f16 .u32 rz s

/-- `F2I.F16.U64` (R235). -/
def execF2iF16U64 (rz : Bool) (s : State) : Out := f2iOp .f16 .u64 rz s

/-- `F2I.F32.I32` (R235). -/
def execF2iF32I32 (rz : Bool) (s : State) : Out := f2iOp .f32 .i32 rz s

/-- `F2I.F32.I64` (R235). -/
def execF2iF32I64 (rz : Bool) (s : State) : Out := f2iOp .f32 .i64 rz s

/-- `F2I.F32.U32` (R235). -/
def execF2iF32U32 (rz : Bool) (s : State) : Out := f2iOp .f32 .u32 rz s

/-- `F2I.F32.U64` (R235). -/
def execF2iF32U64 (rz : Bool) (s : State) : Out := f2iOp .f32 .u64 rz s

/-- `F2I.F64.I32` (R235). -/
def execF2iF64I32 (rz : Bool) (s : State) : Out := f2iOp .f64 .i32 rz s

/-- `F2I.F64.I64` (R235). -/
def execF2iF64I64 (rz : Bool) (s : State) : Out := f2iOp .f64 .i64 rz s

/-- `F2I.F64.U32` (R235). -/
def execF2iF64U32 (rz : Bool) (s : State) : Out := f2iOp .f64 .u32 rz s

/-- `F2I.F64.U64` (R235). -/
def execF2iF64U64 (rz : Bool) (s : State) : Out := f2iOp .f64 .u64 rz s

/-- `F2I.F80.I32` (R235). -/
def execF2iF80I32 (rz : Bool) (s : State) : Out := f2iOp .f80 .i32 rz s

/-- `F2I.F80.I64` (R235). -/
def execF2iF80I64 (rz : Bool) (s : State) : Out := f2iOp .f80 .i64 rz s

/-- `F2I.F80.U32` (R235). -/
def execF2iF80U32 (rz : Bool) (s : State) : Out := f2iOp .f80 .u32 rz s

/-- `F2I.F80.U64` (R235). -/
def execF2iF80U64 (rz : Bool) (s : State) : Out := f2iOp .f80 .u64 rz s

/-- `F2I.F128.I32` (R235). -/
def execF2iF128I32 (rz : Bool) (s : State) : Out := f2iOp .f128 .i32 rz s

/-- `F2I.F128.I64` (R235). -/
def execF2iF128I64 (rz : Bool) (s : State) : Out := f2iOp .f128 .i64 rz s

/-- `F2I.F128.U32` (R235). -/
def execF2iF128U32 (rz : Bool) (s : State) : Out := f2iOp .f128 .u32 rz s

/-- `F2I.F128.U64` (R235). -/
def execF2iF128U64 (rz : Bool) (s : State) : Out := f2iOp .f128 .u64 rz s

/-- `F2F.F16.F32` (R240). -/
def execF2fF16F32 (s : State) : Out := f2fOp nanPolicy .f16 .f32 s

/-- `F2F.F16.F64` (R240). -/
def execF2fF16F64 (s : State) : Out := f2fOp nanPolicy .f16 .f64 s

/-- `F2F.F16.F80` (R240). -/
def execF2fF16F80 (s : State) : Out := f2fOp nanPolicy .f16 .f80 s

/-- `F2F.F16.F128` (R240). -/
def execF2fF16F128 (s : State) : Out := f2fOp nanPolicy .f16 .f128 s

/-- `F2F.F32.F16` (R240). -/
def execF2fF32F16 (s : State) : Out := f2fOp nanPolicy .f32 .f16 s

/-- `F2F.F32.F64` (R240). -/
def execF2fF32F64 (s : State) : Out := f2fOp nanPolicy .f32 .f64 s

/-- `F2F.F32.F80` (R240). -/
def execF2fF32F80 (s : State) : Out := f2fOp nanPolicy .f32 .f80 s

/-- `F2F.F32.F128` (R240). -/
def execF2fF32F128 (s : State) : Out := f2fOp nanPolicy .f32 .f128 s

/-- `F2F.F64.F16` (R240). -/
def execF2fF64F16 (s : State) : Out := f2fOp nanPolicy .f64 .f16 s

/-- `F2F.F64.F32` (R240). -/
def execF2fF64F32 (s : State) : Out := f2fOp nanPolicy .f64 .f32 s

/-- `F2F.F64.F80` (R240). -/
def execF2fF64F80 (s : State) : Out := f2fOp nanPolicy .f64 .f80 s

/-- `F2F.F64.F128` (R240). -/
def execF2fF64F128 (s : State) : Out := f2fOp nanPolicy .f64 .f128 s

/-- `F2F.F80.F16` (R240). -/
def execF2fF80F16 (s : State) : Out := f2fOp nanPolicy .f80 .f16 s

/-- `F2F.F80.F32` (R240). -/
def execF2fF80F32 (s : State) : Out := f2fOp nanPolicy .f80 .f32 s

/-- `F2F.F80.F64` (R240). -/
def execF2fF80F64 (s : State) : Out := f2fOp nanPolicy .f80 .f64 s

/-- `F2F.F80.F128` (R240). -/
def execF2fF80F128 (s : State) : Out := f2fOp nanPolicy .f80 .f128 s

/-- `F2F.F128.F16` (R240). -/
def execF2fF128F16 (s : State) : Out := f2fOp nanPolicy .f128 .f16 s

/-- `F2F.F128.F32` (R240). -/
def execF2fF128F32 (s : State) : Out := f2fOp nanPolicy .f128 .f32 s

/-- `F2F.F128.F64` (R240). -/
def execF2fF128F64 (s : State) : Out := f2fOp nanPolicy .f128 .f64 s

/-- `F2F.F128.F80` (R240). -/
def execF2fF128F80 (s : State) : Out := f2fOp nanPolicy .f128 .f80 s

end Sys2Proof.Machine
end

