-- ==== Sys2Proof/Machine/Arith.lean ====
section
/-!
DEFINITION. Machine/Arith.lean: the arithmetic operations (spec/45_arith.md). Each has its special-case lattice in the spec's order, then the exact
result handed to the engine (R250). The functions whose name ends in `Squashed` are the rule after its common prologue (R251), which
replaces subnormal operands where `CTL.FIZ` says so.
-/

namespace Sys2Proof.Machine

open Sys2Proof.Config (NanPolicy)

/-- A finite pattern whose value is zero: neither infinity nor NaN (R251). -/
def isFiniteZero (F : Fmt) (a : Pat) : Bool := !isInf F a && !isNaN F a && isValZero F a

/-- `ZeroSumSign(sx, sy)` (R252): the mode code is compared with `TN`, not checked. -/
def zeroSumSign (ctl : Word) (sx sy : Bool) : Bool := if sx = sy then sx else ctlRM ctl == 4

/-- The exact value `(-1)^sgn * |Val(F, a)|`. -/
def signedMag (F : Fmt) (sgn : Bool) (a : Pat) : Frac := if sgn then (mag F a).neg else mag F a

/-- `AddSub` after its prologue (R255, R256). -/
def addSubSquashed (pol : NanPolicy) (ctl : Word) (F : Fmt) (sub : Bool) (a b : Pat) : Except ContractCause (Flagged Pat) :=
  let sa := sign F a
  let sb := sign F b ^^ sub
  if isNaN F a || isNaN F b then .ok (propNaN2 pol F a b)
  else if isInf F a then
    if isInf F b && sa != sb then .ok (invalidNaN pol F) else .ok (quietly (inf F sa))
  else if isInf F b then .ok (quietly (inf F sb))
  else
    let r := (signedMag F sa a).add (signedMag F sb b)
    if r.isZero then .ok (quietly (zero F (zeroSumSign ctl sa sb))) else roundPack ctl F r.isNeg r.abs

/-- `AddSub(F, a, b, sub)` (R255). -/
def addSub (pol : NanPolicy) (ctl : Word) (F : Fmt) (sub : Bool) (a b : Pat) : Except ContractCause (Flagged Pat) :=
  (addSubSquashed pol ctl F sub (squash ctl F a) (squash ctl F b)).map
    (Flagged.raise (squashFlag ctl F a ||| squashFlag ctl F b))

/-- `FMUL` after its prologue (R257). -/
def mulSquashed (pol : NanPolicy) (ctl : Word) (F : Fmt) (a b : Pat) : Except ContractCause (Flagged Pat) :=
  let sgn := sign F a ^^ sign F b
  if isNaN F a || isNaN F b then .ok (propNaN2 pol F a b)
  else if isInf F a || isInf F b then
    if (isInf F a && isFiniteZero F b) || (isInf F b && isFiniteZero F a) then .ok (invalidNaN pol F)
    else .ok (quietly (inf F sgn))
  else
    let r := (mag F a).mul (mag F b)
    if r.isZero then .ok (quietly (zero F sgn)) else roundPack ctl F sgn r

/-- `FMUL(F, a, b)` (R257). -/
def fmul (pol : NanPolicy) (ctl : Word) (F : Fmt) (a b : Pat) : Except ContractCause (Flagged Pat) :=
  (mulSquashed pol ctl F (squash ctl F a) (squash ctl F b)).map (Flagged.raise (squashFlag ctl F a ||| squashFlag ctl F b))

/-- `FDIV` after its prologue (R258). -/
def divSquashed (pol : NanPolicy) (ctl : Word) (F : Fmt) (a b : Pat) : Except ContractCause (Flagged Pat) :=
  let sgn := sign F a ^^ sign F b
  if isNaN F a || isNaN F b then .ok (propNaN2 pol F a b)
  else if isInf F a then
    if isInf F b then .ok (invalidNaN pol F) else .ok (quietly (inf F sgn))
  else if isInf F b then .ok (quietly (zero F sgn))
  else if isValZero F b then
    if isValZero F a then .ok (invalidNaN pol F) else .ok { val := inf F sgn, flags := Flag.divByZero }
  else if isValZero F a then .ok (quietly (zero F sgn))
  else roundPack ctl F sgn ((mag F a).div (mag F b))

/-- `FDIV(F, a, b)` (R258). -/
def fdiv (pol : NanPolicy) (ctl : Word) (F : Fmt) (a b : Pat) : Except ContractCause (Flagged Pat) :=
  (divSquashed pol ctl F (squash ctl F a) (squash ctl F b)).map (Flagged.raise (squashFlag ctl F a ||| squashFlag ctl F b))

/-- The exact remainder `x - n * y` of two finite patterns, `n` the integer nearest to `x / y`, ties to even (R259). -/
def remainder (F : Fmt) (a b : Pat) : Frac :=
  let n : Int := ((mag F a).div (mag F b)).nearestEven
  (val F a).add ((Frac.ofInt (if sign F a = sign F b then -n else n)).mul (val F b))

/-- `FREM` after its prologue (R259). -/
def remSquashed (pol : NanPolicy) (ctl : Word) (F : Fmt) (a b : Pat) : Except ContractCause (Flagged Pat) :=
  if isNaN F a || isNaN F b then .ok (propNaN2 pol F a b)
  else if isInf F a then .ok (invalidNaN pol F)
  else if isFiniteZero F b then .ok (invalidNaN pol F)
  else if isInf F b then .ok (quietly a)
  else if isValZero F a then .ok (quietly (zero F (sign F a)))
  else
    let r := remainder F a b
    if r.isZero then .ok (quietly (zero F (sign F a))) else roundPackFull ctl F r.isNeg r.abs

/-- `FREM(F, a, b)` (R259). -/
def frem (pol : NanPolicy) (ctl : Word) (F : Fmt) (a b : Pat) : Except ContractCause (Flagged Pat) :=
  (remSquashed pol ctl F (squash ctl F a) (squash ctl F b)).map (Flagged.raise (squashFlag ctl F a ||| squashFlag ctl F b))

/-- The four modifiers of `FMA` (spec/30_encoding.md R74). -/
structure FmaMods where
  negC : Bool
  negP : Bool
  negR : Bool
  halve : Bool
  deriving DecidableEq, Repr

/-- `NEG_R` on a non-NaN result: its sign bit inverted (R260). -/
def negateIf (p : Bool) (F : Fmt) (v : Flagged Pat) : Flagged Pat := if p then v.map (negate F) else v

/-- The exact sum that `FMA` rounds: product and addend with their effective signs, halved where `HALVE` says so (R260). -/
def fmaSum (F : Fmt) (m : FmaMods) (ps cs : Bool) (a b c : Pat) : Frac :=
  let p := if ps then ((mag F a).mul (mag F b)).neg else (mag F a).mul (mag F b)
  let r := p.add (signedMag F cs c)
  if m.halve then r.scale (-1) else r

/-- `FMA` after its prologue (R260). -/
def fmaSquashed (pol : NanPolicy) (ctl : Word) (F : Fmt) (m : FmaMods) (a b c : Pat) : Except ContractCause (Flagged Pat) :=
  let infzero := (isInf F a && isFiniteZero F b) || (isInf F b && isFiniteZero F a)
  let ps := (sign F a ^^ sign F b) ^^ m.negP
  let cs := sign F c ^^ m.negC
  if isNaN F a || isNaN F b || isNaN F c then .ok (propNaN3 pol F a b c infzero)
  else if infzero then .ok (invalidNaN pol F)
  else if isInf F a || isInf F b then
    if isInf F c && cs != ps then .ok (invalidNaN pol F) else .ok (quietly (inf F (ps ^^ m.negR)))
  else if isInf F c then .ok (quietly (inf F (cs ^^ m.negR)))
  else
    let r := fmaSum F m ps cs a b c
    if r.isZero then .ok (quietly (zero F (zeroSumSign ctl ps cs ^^ m.negR)))
    else (roundPack ctl F r.isNeg r.abs).map (negateIf m.negR F)

/-- `FMA(F, a, b, c, NEG_C, NEG_P, NEG_R, HALVE)` (R260). -/
def fma (pol : NanPolicy) (ctl : Word) (F : Fmt) (m : FmaMods) (a b c : Pat) : Except ContractCause (Flagged Pat) :=
  (fmaSquashed pol ctl F m (squash ctl F a) (squash ctl F b) (squash ctl F c)).map
    (Flagged.raise (squashFlag ctl F a ||| squashFlag ctl F b ||| squashFlag ctl F c))

/-- The real square root of a positive pattern as a fraction that the engine rounds alike: R261's integer square root of
`m * 4^t`, half a unit added when it is not exact. -/
def sqrtFrac (F : Fmt) (a : Pat) : Frac :=
  let odd := magExp F a % 2 = 1
  let m := if odd then magSig F a * 2 else magSig F a
  let e := if odd then magExp F a - 1 else magExp F a
  let t := F.N + 1
  let sq := isqrt (m * 4 ^ t)
  Frac.scale (Frac.ofInt (2 * sq + (if sq * sq = m * 4 ^ t then 0 else 1) : Nat)) (e / 2 - t - 1)

/-- `FSQRT` after its prologue (R261). -/
def sqrtSquashed (pol : NanPolicy) (ctl : Word) (F : Fmt) (a : Pat) : Except ContractCause (Flagged Pat) :=
  if isNaN F a then .ok (propNaN1 pol F a)
  else if isFiniteZero F a then .ok (quietly (zero F (sign F a)))
  else if sign F a then .ok (invalidNaN pol F)
  else if isInf F a then .ok (quietly a)
  else roundPack ctl F false (sqrtFrac F a)

/-- `FSQRT(F, a)` (R261). -/
def fsqrt (pol : NanPolicy) (ctl : Word) (F : Fmt) (a : Pat) : Except ContractCause (Flagged Pat) :=
  (sqrtSquashed pol ctl F (squash ctl F a)).map (Flagged.raise (squashFlag ctl F a))

/-- The integer that `FRINT` rounds a non-integer magnitude to (R262). -/
def rintMag (mode : RMode) (sgn : Bool) (x : Frac) : Nat :=
  match mode with
  | .ne => x.nearestEven
  | .na => if x.den ≤ 2 * x.rest then x.whole + 1 else x.whole
  | .tz => x.whole
  | .tp => if sgn then x.whole else x.whole + 1
  | .tn => if sgn then x.whole + 1 else x.whole
  | .odd => x.whole ||| 1

/-- `FRINT` after its prologue (R262). -/
def rintSquashed (pol : NanPolicy) (ctl : Word) (F : Fmt) (a : Pat) : Except ContractCause (Flagged Pat) :=
  if isNaN F a then .ok (propNaN1 pol F a)
  else if isInf F a || isZero F a then .ok (quietly a)
  else if (mag F a).rest = 0 then .ok (quietly a)
  else
    match readMode ctl with
    | .error c => .error c
    | .ok mode =>
      let q := rintMag mode (sign F a) (mag F a)
      .ok { val := if q = 0 then zero F (sign F a) else packExact F (sign F a) (Frac.ofInt q), flags := Flag.inexact }

/-- `FRINT(F, a)` (R262). -/
def frint (pol : NanPolicy) (ctl : Word) (F : Fmt) (a : Pat) : Except ContractCause (Flagged Pat) :=
  (rintSquashed pol ctl F (squash ctl F a)).map (Flagged.raise (squashFlag ctl F a))

/-- `FSCALBN` after its prologue: the amount is clamped to ±65536 (R263). -/
def scalbnSquashed (pol : NanPolicy) (ctl : Word) (F : Fmt) (n : Int) (a : Pat) : Except ContractCause (Flagged Pat) :=
  if isNaN F a then .ok (propNaN1 pol F a)
  else if isInf F a then .ok (quietly a)
  else if isValZero F a then .ok (quietly (zero F (sign F a)))
  else roundPack ctl F (sign F a) ((mag F a).scale (max (-65536) (min 65536 n)))

/-- `FSCALBN(F, a, n)` (R263). -/
def fscalbn (pol : NanPolicy) (ctl : Word) (F : Fmt) (n : Int) (a : Pat) : Except ContractCause (Flagged Pat) :=
  (scalbnSquashed pol ctl F n (squash ctl F a)).map (Flagged.raise (squashFlag ctl F a))

/-- `FADD.F` at the ports. -/
def faddOp (pol : NanPolicy) (F : Fmt) (s : State) : Out := completePat F (addSub pol s.ctl F false (patA F s) (patB F s)) s

/-- `FSUB.F` at the ports. -/
def fsubOp (pol : NanPolicy) (F : Fmt) (s : State) : Out := completePat F (addSub pol s.ctl F true (patA F s) (patB F s)) s

/-- `FMUL.F` at the ports. -/
def fmulOp (pol : NanPolicy) (F : Fmt) (s : State) : Out := completePat F (fmul pol s.ctl F (patA F s) (patB F s)) s

/-- `FDIV.F` at the ports. -/
def fdivOp (pol : NanPolicy) (F : Fmt) (s : State) : Out := completePat F (fdiv pol s.ctl F (patA F s) (patB F s)) s

/-- `FREM.F` at the ports. -/
def fremOp (pol : NanPolicy) (F : Fmt) (s : State) : Out := completePat F (frem pol s.ctl F (patA F s) (patB F s)) s

/-- `FMA.F` at the ports. -/
def fmaOp (pol : NanPolicy) (F : Fmt) (negC negP negR halve : Bool) (s : State) : Out :=
  completePat F (fma pol s.ctl F ⟨negC, negP, negR, halve⟩ (patA F s) (patB F s) (patC F s)) s

/-- `FSQRT.F` at the ports. -/
def fsqrtOp (pol : NanPolicy) (F : Fmt) (s : State) : Out := completePat F (fsqrt pol s.ctl F (patA F s)) s

/-- `FRINT.F` at the ports. -/
def frintOp (pol : NanPolicy) (F : Fmt) (s : State) : Out := completePat F (frint pol s.ctl F (patA F s)) s

/-- `FSCALBN.F` at the ports. -/
def fscalbnOp (pol : NanPolicy) (F : Fmt) (s : State) : Out := completePat F (fscalbn pol s.ctl F (sint32B s) (patA F s)) s

/-- `FADD.F16` (R255). -/
def execFaddF16 (s : State) : Out := faddOp nanPolicy .f16 s

/-- `FADD.F32` (R255). -/
def execFaddF32 (s : State) : Out := faddOp nanPolicy .f32 s

/-- `FADD.F64` (R255). -/
def execFaddF64 (s : State) : Out := faddOp nanPolicy .f64 s

/-- `FADD.F80` (R255). -/
def execFaddF80 (s : State) : Out := faddOp nanPolicy .f80 s

/-- `FADD.F128` (R255). -/
def execFaddF128 (s : State) : Out := faddOp nanPolicy .f128 s

/-- `FSUB.F16` (R256). -/
def execFsubF16 (s : State) : Out := fsubOp nanPolicy .f16 s

/-- `FSUB.F32` (R256). -/
def execFsubF32 (s : State) : Out := fsubOp nanPolicy .f32 s

/-- `FSUB.F64` (R256). -/
def execFsubF64 (s : State) : Out := fsubOp nanPolicy .f64 s

/-- `FSUB.F80` (R256). -/
def execFsubF80 (s : State) : Out := fsubOp nanPolicy .f80 s

/-- `FSUB.F128` (R256). -/
def execFsubF128 (s : State) : Out := fsubOp nanPolicy .f128 s

/-- `FMUL.F16` (R257). -/
def execFmulF16 (s : State) : Out := fmulOp nanPolicy .f16 s

/-- `FMUL.F32` (R257). -/
def execFmulF32 (s : State) : Out := fmulOp nanPolicy .f32 s

/-- `FMUL.F64` (R257). -/
def execFmulF64 (s : State) : Out := fmulOp nanPolicy .f64 s

/-- `FMUL.F80` (R257). -/
def execFmulF80 (s : State) : Out := fmulOp nanPolicy .f80 s

/-- `FMUL.F128` (R257). -/
def execFmulF128 (s : State) : Out := fmulOp nanPolicy .f128 s

/-- `FDIV.F16` (R258). -/
def execFdivF16 (s : State) : Out := fdivOp nanPolicy .f16 s

/-- `FDIV.F32` (R258). -/
def execFdivF32 (s : State) : Out := fdivOp nanPolicy .f32 s

/-- `FDIV.F64` (R258). -/
def execFdivF64 (s : State) : Out := fdivOp nanPolicy .f64 s

/-- `FDIV.F80` (R258). -/
def execFdivF80 (s : State) : Out := fdivOp nanPolicy .f80 s

/-- `FDIV.F128` (R258). -/
def execFdivF128 (s : State) : Out := fdivOp nanPolicy .f128 s

/-- `FREM.F16` (R259). -/
def execFremF16 (s : State) : Out := fremOp nanPolicy .f16 s

/-- `FREM.F32` (R259). -/
def execFremF32 (s : State) : Out := fremOp nanPolicy .f32 s

/-- `FREM.F64` (R259). -/
def execFremF64 (s : State) : Out := fremOp nanPolicy .f64 s

/-- `FREM.F80` (R259). -/
def execFremF80 (s : State) : Out := fremOp nanPolicy .f80 s

/-- `FREM.F128` (R259). -/
def execFremF128 (s : State) : Out := fremOp nanPolicy .f128 s

/-- `FMA.F16` (R260). -/
def execFmaF16 (negC negP negR halve : Bool) (s : State) : Out := fmaOp nanPolicy .f16 negC negP negR halve s

/-- `FMA.F32` (R260). -/
def execFmaF32 (negC negP negR halve : Bool) (s : State) : Out := fmaOp nanPolicy .f32 negC negP negR halve s

/-- `FMA.F64` (R260). -/
def execFmaF64 (negC negP negR halve : Bool) (s : State) : Out := fmaOp nanPolicy .f64 negC negP negR halve s

/-- `FMA.F80` (R260). -/
def execFmaF80 (negC negP negR halve : Bool) (s : State) : Out := fmaOp nanPolicy .f80 negC negP negR halve s

/-- `FMA.F128` (R260). -/
def execFmaF128 (negC negP negR halve : Bool) (s : State) : Out := fmaOp nanPolicy .f128 negC negP negR halve s

/-- `FSQRT.F16` (R261). -/
def execFsqrtF16 (s : State) : Out := fsqrtOp nanPolicy .f16 s

/-- `FSQRT.F32` (R261). -/
def execFsqrtF32 (s : State) : Out := fsqrtOp nanPolicy .f32 s

/-- `FSQRT.F64` (R261). -/
def execFsqrtF64 (s : State) : Out := fsqrtOp nanPolicy .f64 s

/-- `FSQRT.F80` (R261). -/
def execFsqrtF80 (s : State) : Out := fsqrtOp nanPolicy .f80 s

/-- `FSQRT.F128` (R261). -/
def execFsqrtF128 (s : State) : Out := fsqrtOp nanPolicy .f128 s

/-- `FRINT.F16` (R262). -/
def execFrintF16 (s : State) : Out := frintOp nanPolicy .f16 s

/-- `FRINT.F32` (R262). -/
def execFrintF32 (s : State) : Out := frintOp nanPolicy .f32 s

/-- `FRINT.F64` (R262). -/
def execFrintF64 (s : State) : Out := frintOp nanPolicy .f64 s

/-- `FRINT.F80` (R262). -/
def execFrintF80 (s : State) : Out := frintOp nanPolicy .f80 s

/-- `FRINT.F128` (R262). -/
def execFrintF128 (s : State) : Out := frintOp nanPolicy .f128 s

/-- `FSCALBN.F16` (R263). -/
def execFscalbnF16 (s : State) : Out := fscalbnOp nanPolicy .f16 s

/-- `FSCALBN.F32` (R263). -/
def execFscalbnF32 (s : State) : Out := fscalbnOp nanPolicy .f32 s

/-- `FSCALBN.F64` (R263). -/
def execFscalbnF64 (s : State) : Out := fscalbnOp nanPolicy .f64 s

/-- `FSCALBN.F80` (R263). -/
def execFscalbnF80 (s : State) : Out := fscalbnOp nanPolicy .f80 s

/-- `FSCALBN.F128` (R263). -/
def execFscalbnF128 (s : State) : Out := fscalbnOp nanPolicy .f128 s

end Sys2Proof.Machine
end

