-- ==== Sys2Proof/Machine/Compare.lean ====
section
/-!
DEFINITION. Machine/Compare.lean: comparisons and min/max (spec/46_compare_minmax.md). They read `CTL.FIZ` and nothing else of `CTL`, and never fault.
-/

namespace Sys2Proof.Machine

open Sys2Proof.Config (NanPolicy)

/-- The outcome of a three-way comparison (R290, R296). -/
inductive Verdict where
  | less
  | equal
  | greater
  | unordered
  deriving DecidableEq, Repr

/-- The codes of R296. -/
def Verdict.code : Verdict → Nat
  | .less => 0
  | .equal => 1
  | .greater => 2
  | .unordered => 3

/-- `Ext(a) < Ext(b)` for patterns that are no NaN: the order of the extended reals (R290). -/
def extLt (F : Fmt) (a b : Pat) : Bool :=
  if isInf F a then sign F a && !(isInf F b && sign F b)
  else if isInf F b then !sign F b
  else (val F a).lt (val F b)

/-- `|Ext(a)| < |Ext(b)|` (R297). -/
def extMagLt (F : Fmt) (a b : Pat) : Bool :=
  if isInf F a then false else if isInf F b then true else (mag F a).lt (mag F b)

/-- `Rel(F, a, b)` (R290). -/
def relation (F : Fmt) (a b : Pat) : Verdict :=
  if extLt F a b then .less else if extLt F b a then .greater else .equal

/-- `Compare` after its prologue (R291). -/
def compareSquashed (pol : NanPolicy) (F : Fmt) (q : Bool) (a b : Pat) : Flagged Verdict :=
  if isNaN F a || isNaN F b then { val := .unordered, flags := flagIf (!q || isSNaN pol F a || isSNaN pol F b) Flag.invalid }
  else { val := relation F a b, flags := 0 }

/-- `Compare(F, a, b, Q)` (R291). -/
def compare (pol : NanPolicy) (ctl : Word) (F : Fmt) (q : Bool) (a b : Pat) : Flagged Verdict :=
  (compareSquashed pol F q (squash ctl F a) (squash ctl F b)).raise (squashFlag ctl F a ||| squashFlag ctl F b)

/-- The smaller or the larger of two patterns that are no NaN, by value or by magnitude first (R297). Two patterns of the same sign and magnitude give `b`:
R297's prose and decision D44 (log entry 21). -/
def pickMinMax (F : Fmt) (ismin ismag : Bool) (a b : Pat) : Pat :=
  if ismag && (extMagLt F a b || extMagLt F b a) then
    if extMagLt F a b = ismin then a else b
  else if sign F a != sign F b then
    if sign F a = ismin then a else b
  else if extMagLt F a b || extMagLt F b a then
    if (extMagLt F a b ^^ sign F a) = ismin then a else b
  else b

/-- `MinMax` after its prologue (R297). -/
def minMaxSquashed (pol : NanPolicy) (F : Fmt) (ismin ismag : Bool) (a b : Pat) : Flagged Pat :=
  if isNaN F a || isNaN F b then
    if isQNaN pol F a && !isNaN F b then quietly b
    else if isQNaN pol F b && !isNaN F a then quietly a
    else propNaN2 pol F a b
  else quietly (pickMinMax F ismin ismag a b)

/-- `MinMax(F, a, b, ismin, ismag)` (R297). -/
def minMax (pol : NanPolicy) (ctl : Word) (F : Fmt) (ismin ismag : Bool) (a b : Pat) : Flagged Pat :=
  (minMaxSquashed pol F ismin ismag (squash ctl F a) (squash ctl F b)).raise (squashFlag ctl F a ||| squashFlag ctl F b)

/-- A predicate on the verdict, answered on `R[0]`. -/
def predicateOp (pol : NanPolicy) (p : Verdict → Bool) (F : Fmt) (q : Bool) (s : State) : Out :=
  let v := compare pol s.ctl F q (patA F s) (patB F s)
  .next (answer (outBool (p v.val)) 0 v.flags s)

/-- `FEQ.F` (R292). -/
def feqOp (pol : NanPolicy) (F : Fmt) (q : Bool) (s : State) : Out := predicateOp pol (fun v => v == .equal) F q s

/-- `FLE.F` (R293). -/
def fleOp (pol : NanPolicy) (F : Fmt) (q : Bool) (s : State) : Out := predicateOp pol (fun v => v == .less || v == .equal) F q s

/-- `FLT.F` (R294). -/
def fltOp (pol : NanPolicy) (F : Fmt) (q : Bool) (s : State) : Out := predicateOp pol (fun v => v == .less) F q s

/-- `FUNORD.F` (R295). -/
def funordOp (pol : NanPolicy) (F : Fmt) (q : Bool) (s : State) : Out := predicateOp pol (fun v => v == .unordered) F q s

/-- `FCMP.F`: the code on `R[1:0]` (R296). -/
def fcmpOp (pol : NanPolicy) (F : Fmt) (q : Bool) (s : State) : Out :=
  let v := compare pol s.ctl F q (patA F s) (patB F s)
  .next (answer (outBits 2 v.val.code) 0 v.flags s)

/-- The four min/max operations at the ports (R298 to R301). -/
def minMaxOp (pol : NanPolicy) (ismin ismag : Bool) (F : Fmt) (s : State) : Out :=
  completePat F (.ok (minMax pol s.ctl F ismin ismag (patA F s) (patB F s))) s

/-- `FEQ.F16` (R292). -/
def execFeqF16 (q : Bool) (s : State) : Out := feqOp nanPolicy .f16 q s

/-- `FEQ.F32` (R292). -/
def execFeqF32 (q : Bool) (s : State) : Out := feqOp nanPolicy .f32 q s

/-- `FEQ.F64` (R292). -/
def execFeqF64 (q : Bool) (s : State) : Out := feqOp nanPolicy .f64 q s

/-- `FEQ.F80` (R292). -/
def execFeqF80 (q : Bool) (s : State) : Out := feqOp nanPolicy .f80 q s

/-- `FEQ.F128` (R292). -/
def execFeqF128 (q : Bool) (s : State) : Out := feqOp nanPolicy .f128 q s

/-- `FLE.F16` (R293). -/
def execFleF16 (q : Bool) (s : State) : Out := fleOp nanPolicy .f16 q s

/-- `FLE.F32` (R293). -/
def execFleF32 (q : Bool) (s : State) : Out := fleOp nanPolicy .f32 q s

/-- `FLE.F64` (R293). -/
def execFleF64 (q : Bool) (s : State) : Out := fleOp nanPolicy .f64 q s

/-- `FLE.F80` (R293). -/
def execFleF80 (q : Bool) (s : State) : Out := fleOp nanPolicy .f80 q s

/-- `FLE.F128` (R293). -/
def execFleF128 (q : Bool) (s : State) : Out := fleOp nanPolicy .f128 q s

/-- `FLT.F16` (R294). -/
def execFltF16 (q : Bool) (s : State) : Out := fltOp nanPolicy .f16 q s

/-- `FLT.F32` (R294). -/
def execFltF32 (q : Bool) (s : State) : Out := fltOp nanPolicy .f32 q s

/-- `FLT.F64` (R294). -/
def execFltF64 (q : Bool) (s : State) : Out := fltOp nanPolicy .f64 q s

/-- `FLT.F80` (R294). -/
def execFltF80 (q : Bool) (s : State) : Out := fltOp nanPolicy .f80 q s

/-- `FLT.F128` (R294). -/
def execFltF128 (q : Bool) (s : State) : Out := fltOp nanPolicy .f128 q s

/-- `FUNORD.F16` (R295). -/
def execFunordF16 (q : Bool) (s : State) : Out := funordOp nanPolicy .f16 q s

/-- `FUNORD.F32` (R295). -/
def execFunordF32 (q : Bool) (s : State) : Out := funordOp nanPolicy .f32 q s

/-- `FUNORD.F64` (R295). -/
def execFunordF64 (q : Bool) (s : State) : Out := funordOp nanPolicy .f64 q s

/-- `FUNORD.F80` (R295). -/
def execFunordF80 (q : Bool) (s : State) : Out := funordOp nanPolicy .f80 q s

/-- `FUNORD.F128` (R295). -/
def execFunordF128 (q : Bool) (s : State) : Out := funordOp nanPolicy .f128 q s

/-- `FCMP.F16` (R296). -/
def execFcmpF16 (q : Bool) (s : State) : Out := fcmpOp nanPolicy .f16 q s

/-- `FCMP.F32` (R296). -/
def execFcmpF32 (q : Bool) (s : State) : Out := fcmpOp nanPolicy .f32 q s

/-- `FCMP.F64` (R296). -/
def execFcmpF64 (q : Bool) (s : State) : Out := fcmpOp nanPolicy .f64 q s

/-- `FCMP.F80` (R296). -/
def execFcmpF80 (q : Bool) (s : State) : Out := fcmpOp nanPolicy .f80 q s

/-- `FCMP.F128` (R296). -/
def execFcmpF128 (q : Bool) (s : State) : Out := fcmpOp nanPolicy .f128 q s

/-- `FMINNUM.F16` (R298). -/
def execFminnumF16 (s : State) : Out := minMaxOp nanPolicy true false .f16 s

/-- `FMINNUM.F32` (R298). -/
def execFminnumF32 (s : State) : Out := minMaxOp nanPolicy true false .f32 s

/-- `FMINNUM.F64` (R298). -/
def execFminnumF64 (s : State) : Out := minMaxOp nanPolicy true false .f64 s

/-- `FMINNUM.F80` (R298). -/
def execFminnumF80 (s : State) : Out := minMaxOp nanPolicy true false .f80 s

/-- `FMINNUM.F128` (R298). -/
def execFminnumF128 (s : State) : Out := minMaxOp nanPolicy true false .f128 s

/-- `FMAXNUM.F16` (R299). -/
def execFmaxnumF16 (s : State) : Out := minMaxOp nanPolicy false false .f16 s

/-- `FMAXNUM.F32` (R299). -/
def execFmaxnumF32 (s : State) : Out := minMaxOp nanPolicy false false .f32 s

/-- `FMAXNUM.F64` (R299). -/
def execFmaxnumF64 (s : State) : Out := minMaxOp nanPolicy false false .f64 s

/-- `FMAXNUM.F80` (R299). -/
def execFmaxnumF80 (s : State) : Out := minMaxOp nanPolicy false false .f80 s

/-- `FMAXNUM.F128` (R299). -/
def execFmaxnumF128 (s : State) : Out := minMaxOp nanPolicy false false .f128 s

/-- `FMINNUMMAG.F16` (R300). -/
def execFminnummagF16 (s : State) : Out := minMaxOp nanPolicy true true .f16 s

/-- `FMINNUMMAG.F32` (R300). -/
def execFminnummagF32 (s : State) : Out := minMaxOp nanPolicy true true .f32 s

/-- `FMINNUMMAG.F64` (R300). -/
def execFminnummagF64 (s : State) : Out := minMaxOp nanPolicy true true .f64 s

/-- `FMINNUMMAG.F80` (R300). -/
def execFminnummagF80 (s : State) : Out := minMaxOp nanPolicy true true .f80 s

/-- `FMINNUMMAG.F128` (R300). -/
def execFminnummagF128 (s : State) : Out := minMaxOp nanPolicy true true .f128 s

/-- `FMAXNUMMAG.F16` (R301). -/
def execFmaxnummagF16 (s : State) : Out := minMaxOp nanPolicy false true .f16 s

/-- `FMAXNUMMAG.F32` (R301). -/
def execFmaxnummagF32 (s : State) : Out := minMaxOp nanPolicy false true .f32 s

/-- `FMAXNUMMAG.F64` (R301). -/
def execFmaxnummagF64 (s : State) : Out := minMaxOp nanPolicy false true .f64 s

/-- `FMAXNUMMAG.F80` (R301). -/
def execFmaxnummagF80 (s : State) : Out := minMaxOp nanPolicy false true .f80 s

/-- `FMAXNUMMAG.F128` (R301). -/
def execFmaxnummagF128 (s : State) : Out := minMaxOp nanPolicy false true .f128 s

end Sys2Proof.Machine
end

