-- ==== Sys2Proof/Machine/MultiWord.lean ====
section
/-!
DEFINITION. Machine/MultiWord.lean: the multi-word integer primitives (spec/40_multiword.md). None reads `CTL` or sets a flag (R112);
all compares are unsigned (R114). Each operation is written once for all its widths; the meanings of the table's rows follow.
-/

namespace Sys2Proof.Machine

/-- `ADD`: the sum modulo `2^(64n)` on `R`, the carry out on `X` (R100, R113). -/
def addWords (n : Words) (s : State) : Out :=
  let sum := wordsA n s + wordsB n s
  .next (answer (outBits n.bits sum) (BitVec.ofNat 64 (sum / 2 ^ n.bits)) 0 s)

/-- `SUB`: the difference modulo `2^(64n)` on `R`, the borrow out on `X` (R101, R113). -/
def subWords (n : Words) (s : State) : Out :=
  let d : Int := (wordsA n s : Int) - wordsB n s
  .next (answer (outBits n.bits (d % (2 ^ n.bits : Nat)).toNat) (if wordsA n s < wordsB n s then 1 else 0) 0 s)

/-- A compare: the verdict on `R[0]` (R102 to R105). -/
def compareWords (rel : Nat → Nat → Bool) (n : Words) (s : State) : Out :=
  .next (answer (outBool (rel (wordsA n s) (wordsB n s))) 0 0 s)

/-- `SHL`: zero for a count at or beyond the width (R106). -/
def shlWords (n : Words) (s : State) : Out :=
  let c := shiftCount s
  .next (answer (outBits n.bits (if n.bits ≤ c then 0 else wordsA n s * 2 ^ c)) 0 0 s)

/-- `SHR`: zero for a count at or beyond the width (R107). -/
def shrWords (n : Words) (s : State) : Out :=
  let c := shiftCount s
  .next (answer (outBits n.bits (if n.bits ≤ c then 0 else wordsA n s / 2 ^ c)) 0 0 s)

/-- `SHRJ`: the jamming right shift (R108). -/
def shrjWords (n : Words) (s : State) : Out :=
  .next (answer (outBits n.bits (shrjam (wordsA n s) (shiftCount s))) 0 0 s)

/-- `CLZ`: the count of leading zeros on `R[8:0]` (R109). -/
def clzWords (n : Words) (s : State) : Out :=
  let a := wordsA n s
  .next (answer (outBits 9 (if a = 0 then n.bits else n.bits - 1 - msb a)) 0 0 s)

/-- `MULnX64`: `n` words by one word, exact (R110). -/
def mulWords (n : Words) (s : State) : Out :=
  .next (answer (outBits (n.bits + 64) (wordsA n s * bitsB 64 s)) 0 0 s)

/-- `MUL128X128`: exact (R111). -/
def mulSquare (s : State) : Out :=
  .next (answer (outBits 256 (bitsA 128 s * bitsB 128 s)) 0 0 s)

/-- The preconditions of the two divide operations, in their order (R131, R133, spec/60_exceptions.md R347). -/
def divideFault (a b : Nat) : Option ContractCause :=
  if b = 0 then some .zeroDivisor else if b ≤ a / 2 ^ 64 then some .quotientOverflow else none

/-- `DIVEST_ERR(a, b)`: the parameter `err`, at most the quotient (R131; log entry 8). -/
def divestErr (err : BitVec 128 → BitVec 64 → Fin 3) (a b : Nat) : Nat := min (err (BitVec.ofNat 128 a) (BitVec.ofNat 64 b)).val (a / b)

/-- `DIVEST128`: the quotient estimate (R131). -/
def divEstimate (err : BitVec 128 → BitVec 64 → Fin 3) (s : State) : Out :=
  let a := bitsA 128 s
  let b := bitsB 64 s
  match divideFault a b with
  | some c => .next (takeFault (.contractViolation c) s)
  | none => .next (answer (outBits 64 (a / b - divestErr err a b)) 0 0 s)

/-- The trial-subtract loop of R133, at most `k` iterations: quotient and remainder from an estimate and its partial remainder. -/
def trialSubtract (b : Nat) : Nat → Nat × Nat → Nat × Nat
  | 0, qr => qr
  | k + 1, (e, rem) => if b ≤ rem then trialSubtract b k (e + 1, rem - b) else (e, rem)

/-- `DIVQ128`: the exact quotient on `R`, the remainder on `X` (R133). The result of the listing's estimate and loop, written as the values
the rule says it ends at: it does not depend on `DIVEST_ERR`. -/
def divQuotient (s : State) : Out :=
  let a := bitsA 128 s
  let b := bitsB 64 s
  match divideFault a b with
  | some c => .next (takeFault (.contractViolation c) s)
  | none => .next (answer (outBits 64 (a / b)) (BitVec.ofNat 64 (a % b)) 0 s)

/-- `ADD64` (R100). -/
def execAdd64 (s : State) : Out := addWords .w1 s

/-- `ADD128` (R100). -/
def execAdd128 (s : State) : Out := addWords .w2 s

/-- `ADD192` (R100). -/
def execAdd192 (s : State) : Out := addWords .w3 s

/-- `ADD256` (R100). -/
def execAdd256 (s : State) : Out := addWords .w4 s

/-- `SUB64` (R101). -/
def execSub64 (s : State) : Out := subWords .w1 s

/-- `SUB128` (R101). -/
def execSub128 (s : State) : Out := subWords .w2 s

/-- `SUB192` (R101). -/
def execSub192 (s : State) : Out := subWords .w3 s

/-- `SUB256` (R101). -/
def execSub256 (s : State) : Out := subWords .w4 s

/-- `CMPEQ64` (R102). -/
def execCmpeq64 (s : State) : Out := compareWords (fun a b => a == b) .w1 s

/-- `CMPEQ128` (R102). -/
def execCmpeq128 (s : State) : Out := compareWords (fun a b => a == b) .w2 s

/-- `CMPEQ192` (R102). -/
def execCmpeq192 (s : State) : Out := compareWords (fun a b => a == b) .w3 s

/-- `CMPEQ256` (R102). -/
def execCmpeq256 (s : State) : Out := compareWords (fun a b => a == b) .w4 s

/-- `CMPNE64` (R103). -/
def execCmpne64 (s : State) : Out := compareWords (fun a b => a != b) .w1 s

/-- `CMPNE128` (R103). -/
def execCmpne128 (s : State) : Out := compareWords (fun a b => a != b) .w2 s

/-- `CMPNE192` (R103). -/
def execCmpne192 (s : State) : Out := compareWords (fun a b => a != b) .w3 s

/-- `CMPNE256` (R103). -/
def execCmpne256 (s : State) : Out := compareWords (fun a b => a != b) .w4 s

/-- `CMPLT64` (R104). -/
def execCmplt64 (s : State) : Out := compareWords (fun a b => decide (a < b)) .w1 s

/-- `CMPLT128` (R104). -/
def execCmplt128 (s : State) : Out := compareWords (fun a b => decide (a < b)) .w2 s

/-- `CMPLT192` (R104). -/
def execCmplt192 (s : State) : Out := compareWords (fun a b => decide (a < b)) .w3 s

/-- `CMPLT256` (R104). -/
def execCmplt256 (s : State) : Out := compareWords (fun a b => decide (a < b)) .w4 s

/-- `CMPLE64` (R105). -/
def execCmple64 (s : State) : Out := compareWords (fun a b => decide (a ≤ b)) .w1 s

/-- `CMPLE128` (R105). -/
def execCmple128 (s : State) : Out := compareWords (fun a b => decide (a ≤ b)) .w2 s

/-- `CMPLE192` (R105). -/
def execCmple192 (s : State) : Out := compareWords (fun a b => decide (a ≤ b)) .w3 s

/-- `CMPLE256` (R105). -/
def execCmple256 (s : State) : Out := compareWords (fun a b => decide (a ≤ b)) .w4 s

/-- `SHL64` (R106). -/
def execShl64 (s : State) : Out := shlWords .w1 s

/-- `SHL128` (R106). -/
def execShl128 (s : State) : Out := shlWords .w2 s

/-- `SHL192` (R106). -/
def execShl192 (s : State) : Out := shlWords .w3 s

/-- `SHL256` (R106). -/
def execShl256 (s : State) : Out := shlWords .w4 s

/-- `SHR64` (R107). -/
def execShr64 (s : State) : Out := shrWords .w1 s

/-- `SHR128` (R107). -/
def execShr128 (s : State) : Out := shrWords .w2 s

/-- `SHR192` (R107). -/
def execShr192 (s : State) : Out := shrWords .w3 s

/-- `SHR256` (R107). -/
def execShr256 (s : State) : Out := shrWords .w4 s

/-- `SHRJ64` (R108). -/
def execShrj64 (s : State) : Out := shrjWords .w1 s

/-- `SHRJ128` (R108). -/
def execShrj128 (s : State) : Out := shrjWords .w2 s

/-- `SHRJ192` (R108). -/
def execShrj192 (s : State) : Out := shrjWords .w3 s

/-- `SHRJ256` (R108). -/
def execShrj256 (s : State) : Out := shrjWords .w4 s

/-- `CLZ64` (R109). -/
def execClz64 (s : State) : Out := clzWords .w1 s

/-- `CLZ128` (R109). -/
def execClz128 (s : State) : Out := clzWords .w2 s

/-- `CLZ192` (R109). -/
def execClz192 (s : State) : Out := clzWords .w3 s

/-- `CLZ256` (R109). -/
def execClz256 (s : State) : Out := clzWords .w4 s

/-- `MUL64X64` (R110). -/
def execMul64x64 (s : State) : Out := mulWords .w1 s

/-- `MUL128X64` (R110). -/
def execMul128x64 (s : State) : Out := mulWords .w2 s

/-- `MUL192X64` (R110). -/
def execMul192x64 (s : State) : Out := mulWords .w3 s

/-- `MUL128X128` (R111). -/
def execMul128x128 (s : State) : Out := mulSquare s

/-- `DIVEST128` (R131). -/
def execDivest128 (s : State) : Out := divEstimate Config.divestErr s

/-- `DIVQ128` (R133). -/
def execDivq128 (s : State) : Out := divQuotient s

end Sys2Proof.Machine
end

