-- ==== Sys2Proof/Machine/PackUnpack.lean ====
section
/-!
DEFINITION. Machine/PackUnpack.lean: the unpacker and the packer (spec/41_pack_unpack.md R145 to R148). They see the raw pattern, read neither
`CTL` nor `FLG` and set no flag.
-/

namespace Sys2Proof.Machine

/-- `XSIGN.F` (R145). -/
def xsign (F : Fmt) (s : State) : Out := .next (answer (outBool (sign F (patA F s))) 0 0 s)

/-- `XEXP.F`: the raw exponent field (R146). -/
def xexp (F : Fmt) (s : State) : Out := .next (answer (outBits F.EW (expf F (patA F s))) 0 0 s)

/-- `XSIG.F`: the raw significand field (R147). -/
def xsig (F : Fmt) (s : State) : Out := .next (answer (outBits F.M (sigf F (patA F s))) 0 0 s)

/-- The significand operand of `PACK`: `A[K-1:0]`, for F80 `A[63:0]` (R148). -/
def packSig (F : Fmt) (s : State) : Nat := if F.explicitBit then bitsA 64 s else bitsA F.K s

/-- `PACK.F` (R148). -/
def packOp (F : Fmt) (s : State) : Out := .next (answer (outPat F (pack F (signB s) (uint32B s) (packSig F s))) 0 0 s)

/-- `XSIGN.F16` (R145). -/
def execXsignF16 (s : State) : Out := xsign .f16 s

/-- `XSIGN.F32` (R145). -/
def execXsignF32 (s : State) : Out := xsign .f32 s

/-- `XSIGN.F64` (R145). -/
def execXsignF64 (s : State) : Out := xsign .f64 s

/-- `XSIGN.F80` (R145). -/
def execXsignF80 (s : State) : Out := xsign .f80 s

/-- `XSIGN.F128` (R145). -/
def execXsignF128 (s : State) : Out := xsign .f128 s

/-- `XEXP.F16` (R146). -/
def execXexpF16 (s : State) : Out := xexp .f16 s

/-- `XEXP.F32` (R146). -/
def execXexpF32 (s : State) : Out := xexp .f32 s

/-- `XEXP.F64` (R146). -/
def execXexpF64 (s : State) : Out := xexp .f64 s

/-- `XEXP.F80` (R146). -/
def execXexpF80 (s : State) : Out := xexp .f80 s

/-- `XEXP.F128` (R146). -/
def execXexpF128 (s : State) : Out := xexp .f128 s

/-- `XSIG.F16` (R147). -/
def execXsigF16 (s : State) : Out := xsig .f16 s

/-- `XSIG.F32` (R147). -/
def execXsigF32 (s : State) : Out := xsig .f32 s

/-- `XSIG.F64` (R147). -/
def execXsigF64 (s : State) : Out := xsig .f64 s

/-- `XSIG.F80` (R147). -/
def execXsigF80 (s : State) : Out := xsig .f80 s

/-- `XSIG.F128` (R147). -/
def execXsigF128 (s : State) : Out := xsig .f128 s

/-- `PACK.F16` (R148). -/
def execPackF16 (s : State) : Out := packOp .f16 s

/-- `PACK.F32` (R148). -/
def execPackF32 (s : State) : Out := packOp .f32 s

/-- `PACK.F64` (R148). -/
def execPackF64 (s : State) : Out := packOp .f64 s

/-- `PACK.F80` (R148). -/
def execPackF80 (s : State) : Out := packOp .f80 s

/-- `PACK.F128` (R148). -/
def execPackF128 (s : State) : Out := packOp .f128 s

end Sys2Proof.Machine
end

