-- ==== Sys2Proof/Machine/Status.lean ====
section
/-!
DEFINITION. Machine/Status.lean: the status-context access operations (spec/47_status_ops.md). None consults `CTL.RM` or sets a flag as a side effect.
-/

namespace Sys2Proof.Machine

/-- `RDCTL` (R320). -/
def execRdctl (s : State) : Out := .next (answer ((readCtl s).setWidth 256) 0 0 s)

/-- `WRCTL` (R321): no legality check. -/
def execWrctl (s : State) : Out := .next (answer 0 0 0 (writeCtl (wordA s) s))

/-- `RDFLG` (R322): reading does not clear. -/
def execRdflg (s : State) : Out := .next (answer ((readFlg s).setWidth 256) 0 0 s)

/-- `WRFLG` (R323): a plain write, not an OR. -/
def execWrflg (s : State) : Out := .next (answer 0 0 0 (writeFlg (wordA s) s))

end Sys2Proof.Machine
end

