-- ==== Sys2Proof/Machine/Dispatch.lean ====
section
/-!
DEFINITION. Machine/Dispatch.lean: every instruction's meaning, one arm per constructor of `Instr` (spec/30_encoding.md R75).
-/

namespace Sys2Proof.Machine

/-- What the instruction `i` does to the state whose ports hold its request. -/
def exec (i : Instr) (s : State) : Host.Outcome State Fault Refusal :=
  match i with
  | .add64 => Sys2Proof.Machine.execAdd64 s
  | .add128 => Sys2Proof.Machine.execAdd128 s
  | .add192 => Sys2Proof.Machine.execAdd192 s
  | .add256 => Sys2Proof.Machine.execAdd256 s
  | .sub64 => Sys2Proof.Machine.execSub64 s
  | .sub128 => Sys2Proof.Machine.execSub128 s
  | .sub192 => Sys2Proof.Machine.execSub192 s
  | .sub256 => Sys2Proof.Machine.execSub256 s
  | .cmpeq64 => Sys2Proof.Machine.execCmpeq64 s
  | .cmpeq128 => Sys2Proof.Machine.execCmpeq128 s
  | .cmpeq192 => Sys2Proof.Machine.execCmpeq192 s
  | .cmpeq256 => Sys2Proof.Machine.execCmpeq256 s
  | .cmpne64 => Sys2Proof.Machine.execCmpne64 s
  | .cmpne128 => Sys2Proof.Machine.execCmpne128 s
  | .cmpne192 => Sys2Proof.Machine.execCmpne192 s
  | .cmpne256 => Sys2Proof.Machine.execCmpne256 s
  | .cmplt64 => Sys2Proof.Machine.execCmplt64 s
  | .cmplt128 => Sys2Proof.Machine.execCmplt128 s
  | .cmplt192 => Sys2Proof.Machine.execCmplt192 s
  | .cmplt256 => Sys2Proof.Machine.execCmplt256 s
  | .cmple64 => Sys2Proof.Machine.execCmple64 s
  | .cmple128 => Sys2Proof.Machine.execCmple128 s
  | .cmple192 => Sys2Proof.Machine.execCmple192 s
  | .cmple256 => Sys2Proof.Machine.execCmple256 s
  | .shl64 => Sys2Proof.Machine.execShl64 s
  | .shl128 => Sys2Proof.Machine.execShl128 s
  | .shl192 => Sys2Proof.Machine.execShl192 s
  | .shl256 => Sys2Proof.Machine.execShl256 s
  | .shr64 => Sys2Proof.Machine.execShr64 s
  | .shr128 => Sys2Proof.Machine.execShr128 s
  | .shr192 => Sys2Proof.Machine.execShr192 s
  | .shr256 => Sys2Proof.Machine.execShr256 s
  | .shrj64 => Sys2Proof.Machine.execShrj64 s
  | .shrj128 => Sys2Proof.Machine.execShrj128 s
  | .shrj192 => Sys2Proof.Machine.execShrj192 s
  | .shrj256 => Sys2Proof.Machine.execShrj256 s
  | .clz64 => Sys2Proof.Machine.execClz64 s
  | .clz128 => Sys2Proof.Machine.execClz128 s
  | .clz192 => Sys2Proof.Machine.execClz192 s
  | .clz256 => Sys2Proof.Machine.execClz256 s
  | .mul64x64 => Sys2Proof.Machine.execMul64x64 s
  | .mul128x64 => Sys2Proof.Machine.execMul128x64 s
  | .mul192x64 => Sys2Proof.Machine.execMul192x64 s
  | .mul128x128 => Sys2Proof.Machine.execMul128x128 s
  | .divest128 => Sys2Proof.Machine.execDivest128 s
  | .divq128 => Sys2Proof.Machine.execDivq128 s
  | .xsignF16 => Sys2Proof.Machine.execXsignF16 s
  | .xsignF32 => Sys2Proof.Machine.execXsignF32 s
  | .xsignF64 => Sys2Proof.Machine.execXsignF64 s
  | .xsignF80 => Sys2Proof.Machine.execXsignF80 s
  | .xsignF128 => Sys2Proof.Machine.execXsignF128 s
  | .xexpF16 => Sys2Proof.Machine.execXexpF16 s
  | .xexpF32 => Sys2Proof.Machine.execXexpF32 s
  | .xexpF64 => Sys2Proof.Machine.execXexpF64 s
  | .xexpF80 => Sys2Proof.Machine.execXexpF80 s
  | .xexpF128 => Sys2Proof.Machine.execXexpF128 s
  | .xsigF16 => Sys2Proof.Machine.execXsigF16 s
  | .xsigF32 => Sys2Proof.Machine.execXsigF32 s
  | .xsigF64 => Sys2Proof.Machine.execXsigF64 s
  | .xsigF80 => Sys2Proof.Machine.execXsigF80 s
  | .xsigF128 => Sys2Proof.Machine.execXsigF128 s
  | .packF16 => Sys2Proof.Machine.execPackF16 s
  | .packF32 => Sys2Proof.Machine.execPackF32 s
  | .packF64 => Sys2Proof.Machine.execPackF64 s
  | .packF80 => Sys2Proof.Machine.execPackF80 s
  | .packF128 => Sys2Proof.Machine.execPackF128 s
  | .rpackF16 => Sys2Proof.Machine.execRpackF16 s
  | .rpackF32 => Sys2Proof.Machine.execRpackF32 s
  | .rpackF64 => Sys2Proof.Machine.execRpackF64 s
  | .rpackF80 => Sys2Proof.Machine.execRpackF80 s
  | .rpackF128 => Sys2Proof.Machine.execRpackF128 s
  | .nrpackF16 => Sys2Proof.Machine.execNrpackF16 s
  | .nrpackF32 => Sys2Proof.Machine.execNrpackF32 s
  | .nrpackF64 => Sys2Proof.Machine.execNrpackF64 s
  | .nrpackF80 => Sys2Proof.Machine.execNrpackF80 s
  | .nrpackF128 => Sys2Proof.Machine.execNrpackF128 s
  | .rpackiI32 => Sys2Proof.Machine.execRpackiI32 s
  | .rpackiI64 => Sys2Proof.Machine.execRpackiI64 s
  | .rpackiU32 => Sys2Proof.Machine.execRpackiU32 s
  | .rpackiU64 => Sys2Proof.Machine.execRpackiU64 s
  | .issnanF16 => Sys2Proof.Machine.execIssnanF16 s
  | .issnanF32 => Sys2Proof.Machine.execIssnanF32 s
  | .issnanF64 => Sys2Proof.Machine.execIssnanF64 s
  | .issnanF80 => Sys2Proof.Machine.execIssnanF80 s
  | .issnanF128 => Sys2Proof.Machine.execIssnanF128 s
  | .isqnanF16 => Sys2Proof.Machine.execIsqnanF16 s
  | .isqnanF32 => Sys2Proof.Machine.execIsqnanF32 s
  | .isqnanF64 => Sys2Proof.Machine.execIsqnanF64 s
  | .isqnanF80 => Sys2Proof.Machine.execIsqnanF80 s
  | .isqnanF128 => Sys2Proof.Machine.execIsqnanF128 s
  | .propnanF16 => Sys2Proof.Machine.execPropnanF16 s
  | .propnanF32 => Sys2Proof.Machine.execPropnanF32 s
  | .propnanF64 => Sys2Proof.Machine.execPropnanF64 s
  | .propnanF80 => Sys2Proof.Machine.execPropnanF80 s
  | .propnanF128 => Sys2Proof.Machine.execPropnanF128 s
  | .propnan3F16 infzero => Sys2Proof.Machine.execPropnan3F16 infzero s
  | .propnan3F32 infzero => Sys2Proof.Machine.execPropnan3F32 infzero s
  | .propnan3F64 infzero => Sys2Proof.Machine.execPropnan3F64 infzero s
  | .propnan3F80 infzero => Sys2Proof.Machine.execPropnan3F80 infzero s
  | .propnan3F128 infzero => Sys2Proof.Machine.execPropnan3F128 infzero s
  | .defnanF16 => Sys2Proof.Machine.execDefnanF16 s
  | .defnanF32 => Sys2Proof.Machine.execDefnanF32 s
  | .defnanF64 => Sys2Proof.Machine.execDefnanF64 s
  | .defnanF80 => Sys2Proof.Machine.execDefnanF80 s
  | .defnanF128 => Sys2Proof.Machine.execDefnanF128 s
  | .i2fF16I32 => Sys2Proof.Machine.execI2fF16I32 s
  | .i2fF16I64 => Sys2Proof.Machine.execI2fF16I64 s
  | .i2fF16U32 => Sys2Proof.Machine.execI2fF16U32 s
  | .i2fF16U64 => Sys2Proof.Machine.execI2fF16U64 s
  | .i2fF32I32 => Sys2Proof.Machine.execI2fF32I32 s
  | .i2fF32I64 => Sys2Proof.Machine.execI2fF32I64 s
  | .i2fF32U32 => Sys2Proof.Machine.execI2fF32U32 s
  | .i2fF32U64 => Sys2Proof.Machine.execI2fF32U64 s
  | .i2fF64I32 => Sys2Proof.Machine.execI2fF64I32 s
  | .i2fF64I64 => Sys2Proof.Machine.execI2fF64I64 s
  | .i2fF64U32 => Sys2Proof.Machine.execI2fF64U32 s
  | .i2fF64U64 => Sys2Proof.Machine.execI2fF64U64 s
  | .i2fF80I32 => Sys2Proof.Machine.execI2fF80I32 s
  | .i2fF80I64 => Sys2Proof.Machine.execI2fF80I64 s
  | .i2fF80U32 => Sys2Proof.Machine.execI2fF80U32 s
  | .i2fF80U64 => Sys2Proof.Machine.execI2fF80U64 s
  | .i2fF128I32 => Sys2Proof.Machine.execI2fF128I32 s
  | .i2fF128I64 => Sys2Proof.Machine.execI2fF128I64 s
  | .i2fF128U32 => Sys2Proof.Machine.execI2fF128U32 s
  | .i2fF128U64 => Sys2Proof.Machine.execI2fF128U64 s
  | .f2iF16I32 rz => Sys2Proof.Machine.execF2iF16I32 rz s
  | .f2iF16I64 rz => Sys2Proof.Machine.execF2iF16I64 rz s
  | .f2iF16U32 rz => Sys2Proof.Machine.execF2iF16U32 rz s
  | .f2iF16U64 rz => Sys2Proof.Machine.execF2iF16U64 rz s
  | .f2iF32I32 rz => Sys2Proof.Machine.execF2iF32I32 rz s
  | .f2iF32I64 rz => Sys2Proof.Machine.execF2iF32I64 rz s
  | .f2iF32U32 rz => Sys2Proof.Machine.execF2iF32U32 rz s
  | .f2iF32U64 rz => Sys2Proof.Machine.execF2iF32U64 rz s
  | .f2iF64I32 rz => Sys2Proof.Machine.execF2iF64I32 rz s
  | .f2iF64I64 rz => Sys2Proof.Machine.execF2iF64I64 rz s
  | .f2iF64U32 rz => Sys2Proof.Machine.execF2iF64U32 rz s
  | .f2iF64U64 rz => Sys2Proof.Machine.execF2iF64U64 rz s
  | .f2iF80I32 rz => Sys2Proof.Machine.execF2iF80I32 rz s
  | .f2iF80I64 rz => Sys2Proof.Machine.execF2iF80I64 rz s
  | .f2iF80U32 rz => Sys2Proof.Machine.execF2iF80U32 rz s
  | .f2iF80U64 rz => Sys2Proof.Machine.execF2iF80U64 rz s
  | .f2iF128I32 rz => Sys2Proof.Machine.execF2iF128I32 rz s
  | .f2iF128I64 rz => Sys2Proof.Machine.execF2iF128I64 rz s
  | .f2iF128U32 rz => Sys2Proof.Machine.execF2iF128U32 rz s
  | .f2iF128U64 rz => Sys2Proof.Machine.execF2iF128U64 rz s
  | .f2fF16F32 => Sys2Proof.Machine.execF2fF16F32 s
  | .f2fF16F64 => Sys2Proof.Machine.execF2fF16F64 s
  | .f2fF16F80 => Sys2Proof.Machine.execF2fF16F80 s
  | .f2fF16F128 => Sys2Proof.Machine.execF2fF16F128 s
  | .f2fF32F16 => Sys2Proof.Machine.execF2fF32F16 s
  | .f2fF32F64 => Sys2Proof.Machine.execF2fF32F64 s
  | .f2fF32F80 => Sys2Proof.Machine.execF2fF32F80 s
  | .f2fF32F128 => Sys2Proof.Machine.execF2fF32F128 s
  | .f2fF64F16 => Sys2Proof.Machine.execF2fF64F16 s
  | .f2fF64F32 => Sys2Proof.Machine.execF2fF64F32 s
  | .f2fF64F80 => Sys2Proof.Machine.execF2fF64F80 s
  | .f2fF64F128 => Sys2Proof.Machine.execF2fF64F128 s
  | .f2fF80F16 => Sys2Proof.Machine.execF2fF80F16 s
  | .f2fF80F32 => Sys2Proof.Machine.execF2fF80F32 s
  | .f2fF80F64 => Sys2Proof.Machine.execF2fF80F64 s
  | .f2fF80F128 => Sys2Proof.Machine.execF2fF80F128 s
  | .f2fF128F16 => Sys2Proof.Machine.execF2fF128F16 s
  | .f2fF128F32 => Sys2Proof.Machine.execF2fF128F32 s
  | .f2fF128F64 => Sys2Proof.Machine.execF2fF128F64 s
  | .f2fF128F80 => Sys2Proof.Machine.execF2fF128F80 s
  | .faddF16 => Sys2Proof.Machine.execFaddF16 s
  | .faddF32 => Sys2Proof.Machine.execFaddF32 s
  | .faddF64 => Sys2Proof.Machine.execFaddF64 s
  | .faddF80 => Sys2Proof.Machine.execFaddF80 s
  | .faddF128 => Sys2Proof.Machine.execFaddF128 s
  | .fsubF16 => Sys2Proof.Machine.execFsubF16 s
  | .fsubF32 => Sys2Proof.Machine.execFsubF32 s
  | .fsubF64 => Sys2Proof.Machine.execFsubF64 s
  | .fsubF80 => Sys2Proof.Machine.execFsubF80 s
  | .fsubF128 => Sys2Proof.Machine.execFsubF128 s
  | .fmulF16 => Sys2Proof.Machine.execFmulF16 s
  | .fmulF32 => Sys2Proof.Machine.execFmulF32 s
  | .fmulF64 => Sys2Proof.Machine.execFmulF64 s
  | .fmulF80 => Sys2Proof.Machine.execFmulF80 s
  | .fmulF128 => Sys2Proof.Machine.execFmulF128 s
  | .fdivF16 => Sys2Proof.Machine.execFdivF16 s
  | .fdivF32 => Sys2Proof.Machine.execFdivF32 s
  | .fdivF64 => Sys2Proof.Machine.execFdivF64 s
  | .fdivF80 => Sys2Proof.Machine.execFdivF80 s
  | .fdivF128 => Sys2Proof.Machine.execFdivF128 s
  | .fremF16 => Sys2Proof.Machine.execFremF16 s
  | .fremF32 => Sys2Proof.Machine.execFremF32 s
  | .fremF64 => Sys2Proof.Machine.execFremF64 s
  | .fremF80 => Sys2Proof.Machine.execFremF80 s
  | .fremF128 => Sys2Proof.Machine.execFremF128 s
  | .fmaF16 negC negP negR halve => Sys2Proof.Machine.execFmaF16 negC negP negR halve s
  | .fmaF32 negC negP negR halve => Sys2Proof.Machine.execFmaF32 negC negP negR halve s
  | .fmaF64 negC negP negR halve => Sys2Proof.Machine.execFmaF64 negC negP negR halve s
  | .fmaF80 negC negP negR halve => Sys2Proof.Machine.execFmaF80 negC negP negR halve s
  | .fmaF128 negC negP negR halve => Sys2Proof.Machine.execFmaF128 negC negP negR halve s
  | .fsqrtF16 => Sys2Proof.Machine.execFsqrtF16 s
  | .fsqrtF32 => Sys2Proof.Machine.execFsqrtF32 s
  | .fsqrtF64 => Sys2Proof.Machine.execFsqrtF64 s
  | .fsqrtF80 => Sys2Proof.Machine.execFsqrtF80 s
  | .fsqrtF128 => Sys2Proof.Machine.execFsqrtF128 s
  | .frintF16 => Sys2Proof.Machine.execFrintF16 s
  | .frintF32 => Sys2Proof.Machine.execFrintF32 s
  | .frintF64 => Sys2Proof.Machine.execFrintF64 s
  | .frintF80 => Sys2Proof.Machine.execFrintF80 s
  | .frintF128 => Sys2Proof.Machine.execFrintF128 s
  | .fscalbnF16 => Sys2Proof.Machine.execFscalbnF16 s
  | .fscalbnF32 => Sys2Proof.Machine.execFscalbnF32 s
  | .fscalbnF64 => Sys2Proof.Machine.execFscalbnF64 s
  | .fscalbnF80 => Sys2Proof.Machine.execFscalbnF80 s
  | .fscalbnF128 => Sys2Proof.Machine.execFscalbnF128 s
  | .feqF16 q => Sys2Proof.Machine.execFeqF16 q s
  | .feqF32 q => Sys2Proof.Machine.execFeqF32 q s
  | .feqF64 q => Sys2Proof.Machine.execFeqF64 q s
  | .feqF80 q => Sys2Proof.Machine.execFeqF80 q s
  | .feqF128 q => Sys2Proof.Machine.execFeqF128 q s
  | .fleF16 q => Sys2Proof.Machine.execFleF16 q s
  | .fleF32 q => Sys2Proof.Machine.execFleF32 q s
  | .fleF64 q => Sys2Proof.Machine.execFleF64 q s
  | .fleF80 q => Sys2Proof.Machine.execFleF80 q s
  | .fleF128 q => Sys2Proof.Machine.execFleF128 q s
  | .fltF16 q => Sys2Proof.Machine.execFltF16 q s
  | .fltF32 q => Sys2Proof.Machine.execFltF32 q s
  | .fltF64 q => Sys2Proof.Machine.execFltF64 q s
  | .fltF80 q => Sys2Proof.Machine.execFltF80 q s
  | .fltF128 q => Sys2Proof.Machine.execFltF128 q s
  | .funordF16 q => Sys2Proof.Machine.execFunordF16 q s
  | .funordF32 q => Sys2Proof.Machine.execFunordF32 q s
  | .funordF64 q => Sys2Proof.Machine.execFunordF64 q s
  | .funordF80 q => Sys2Proof.Machine.execFunordF80 q s
  | .funordF128 q => Sys2Proof.Machine.execFunordF128 q s
  | .fcmpF16 q => Sys2Proof.Machine.execFcmpF16 q s
  | .fcmpF32 q => Sys2Proof.Machine.execFcmpF32 q s
  | .fcmpF64 q => Sys2Proof.Machine.execFcmpF64 q s
  | .fcmpF80 q => Sys2Proof.Machine.execFcmpF80 q s
  | .fcmpF128 q => Sys2Proof.Machine.execFcmpF128 q s
  | .fminnumF16 => Sys2Proof.Machine.execFminnumF16 s
  | .fminnumF32 => Sys2Proof.Machine.execFminnumF32 s
  | .fminnumF64 => Sys2Proof.Machine.execFminnumF64 s
  | .fminnumF80 => Sys2Proof.Machine.execFminnumF80 s
  | .fminnumF128 => Sys2Proof.Machine.execFminnumF128 s
  | .fmaxnumF16 => Sys2Proof.Machine.execFmaxnumF16 s
  | .fmaxnumF32 => Sys2Proof.Machine.execFmaxnumF32 s
  | .fmaxnumF64 => Sys2Proof.Machine.execFmaxnumF64 s
  | .fmaxnumF80 => Sys2Proof.Machine.execFmaxnumF80 s
  | .fmaxnumF128 => Sys2Proof.Machine.execFmaxnumF128 s
  | .fminnummagF16 => Sys2Proof.Machine.execFminnummagF16 s
  | .fminnummagF32 => Sys2Proof.Machine.execFminnummagF32 s
  | .fminnummagF64 => Sys2Proof.Machine.execFminnummagF64 s
  | .fminnummagF80 => Sys2Proof.Machine.execFminnummagF80 s
  | .fminnummagF128 => Sys2Proof.Machine.execFminnummagF128 s
  | .fmaxnummagF16 => Sys2Proof.Machine.execFmaxnummagF16 s
  | .fmaxnummagF32 => Sys2Proof.Machine.execFmaxnummagF32 s
  | .fmaxnummagF64 => Sys2Proof.Machine.execFmaxnummagF64 s
  | .fmaxnummagF80 => Sys2Proof.Machine.execFmaxnummagF80 s
  | .fmaxnummagF128 => Sys2Proof.Machine.execFmaxnummagF128 s
  | .rdctl => Sys2Proof.Machine.execRdctl s
  | .wrctl => Sys2Proof.Machine.execWrctl s
  | .rdflg => Sys2Proof.Machine.execRdflg s
  | .wrflg => Sys2Proof.Machine.execWrflg s

end Sys2Proof.Machine
end

