-- ==== Sys2Proof/Machine/Step.lean ====
section
/-!
DEFINITION. Machine/Step.lean: one step of the unit built with the spec's default parameters, and how a command word is put before it.
-/

namespace Sys2Proof.Machine

/-- One step: the next input is taken, and a request is answered by `exec` (R347; spec/20_memory.md R57). -/
def step (s : State) : Out := stepBy exec s

/-- The state whose next step runs the command word `w`: the word replaces that of the request presented next, and where none is, a request
with zero operands is put first (log entry 19). -/
def State.withFetchWord (s : State) (nbits w : Nat) : State :=
  let cmd : Word := BitVec.ofNat 32 (w % 2 ^ nbits)
  match s.inputs with
  | .request q :: rest => { s with inputs := .request { q with cmd := cmd } :: rest }
  | other => { s with inputs := .request { Request.absent with cmd := cmd } :: other }

end Sys2Proof.Machine
end

