-- ==== Sys2Proof/Machine/Params.lean ====
section
/-!
DEFINITION. Machine/Params.lean: the unit built with any values of the parameters of spec/00_scope.md R7, `Config.Params`. The machine `exec`, `step` and
`core` is the one built with the spec's defaults (log entries 8, 9, 11, 12): Laws/Params.lean proves that they agree.
-/

namespace Sys2Proof.Machine

open Sys2Proof.Config (Params)

/-- The spec's defaults (R7). `DIVEST_ERR` and `HOST_BYTE_ORDER` have none: they are free. -/
def defaultParams : Params :=
  { nanPolicy := nanPolicy, divestErr := Config.divestErr, nctx := Config.nctx, hostByteOrder := Config.hostByteOrder }

/-- The meaning of every instruction in the unit built with `P`: the operation that `exec` runs, with the parameters that it takes. -/
def execWith (P : Params) (i : Instr) (s : State) : Out :=
  match i with
  | .add64 => execAdd64 s
  | .add128 => execAdd128 s
  | .add192 => execAdd192 s
  | .add256 => execAdd256 s
  | .sub64 => execSub64 s
  | .sub128 => execSub128 s
  | .sub192 => execSub192 s
  | .sub256 => execSub256 s
  | .cmpeq64 => execCmpeq64 s
  | .cmpeq128 => execCmpeq128 s
  | .cmpeq192 => execCmpeq192 s
  | .cmpeq256 => execCmpeq256 s
  | .cmpne64 => execCmpne64 s
  | .cmpne128 => execCmpne128 s
  | .cmpne192 => execCmpne192 s
  | .cmpne256 => execCmpne256 s
  | .cmplt64 => execCmplt64 s
  | .cmplt128 => execCmplt128 s
  | .cmplt192 => execCmplt192 s
  | .cmplt256 => execCmplt256 s
  | .cmple64 => execCmple64 s
  | .cmple128 => execCmple128 s
  | .cmple192 => execCmple192 s
  | .cmple256 => execCmple256 s
  | .shl64 => execShl64 s
  | .shl128 => execShl128 s
  | .shl192 => execShl192 s
  | .shl256 => execShl256 s
  | .shr64 => execShr64 s
  | .shr128 => execShr128 s
  | .shr192 => execShr192 s
  | .shr256 => execShr256 s
  | .shrj64 => execShrj64 s
  | .shrj128 => execShrj128 s
  | .shrj192 => execShrj192 s
  | .shrj256 => execShrj256 s
  | .clz64 => execClz64 s
  | .clz128 => execClz128 s
  | .clz192 => execClz192 s
  | .clz256 => execClz256 s
  | .mul64x64 => execMul64x64 s
  | .mul128x64 => execMul128x64 s
  | .mul192x64 => execMul192x64 s
  | .mul128x128 => execMul128x128 s
  | .divest128 => divEstimate P.divestErr s
  | .divq128 => execDivq128 s
  | .xsignF16 => execXsignF16 s
  | .xsignF32 => execXsignF32 s
  | .xsignF64 => execXsignF64 s
  | .xsignF80 => execXsignF80 s
  | .xsignF128 => execXsignF128 s
  | .xexpF16 => execXexpF16 s
  | .xexpF32 => execXexpF32 s
  | .xexpF64 => execXexpF64 s
  | .xexpF80 => execXexpF80 s
  | .xexpF128 => execXexpF128 s
  | .xsigF16 => execXsigF16 s
  | .xsigF32 => execXsigF32 s
  | .xsigF64 => execXsigF64 s
  | .xsigF80 => execXsigF80 s
  | .xsigF128 => execXsigF128 s
  | .packF16 => execPackF16 s
  | .packF32 => execPackF32 s
  | .packF64 => execPackF64 s
  | .packF80 => execPackF80 s
  | .packF128 => execPackF128 s
  | .rpackF16 => execRpackF16 s
  | .rpackF32 => execRpackF32 s
  | .rpackF64 => execRpackF64 s
  | .rpackF80 => execRpackF80 s
  | .rpackF128 => execRpackF128 s
  | .nrpackF16 => execNrpackF16 s
  | .nrpackF32 => execNrpackF32 s
  | .nrpackF64 => execNrpackF64 s
  | .nrpackF80 => execNrpackF80 s
  | .nrpackF128 => execNrpackF128 s
  | .rpackiI32 => execRpackiI32 s
  | .rpackiI64 => execRpackiI64 s
  | .rpackiU32 => execRpackiU32 s
  | .rpackiU64 => execRpackiU64 s
  | .issnanF16 => issnan P.nanPolicy .f16 s
  | .issnanF32 => issnan P.nanPolicy .f32 s
  | .issnanF64 => issnan P.nanPolicy .f64 s
  | .issnanF80 => issnan P.nanPolicy .f80 s
  | .issnanF128 => issnan P.nanPolicy .f128 s
  | .isqnanF16 => isqnan P.nanPolicy .f16 s
  | .isqnanF32 => isqnan P.nanPolicy .f32 s
  | .isqnanF64 => isqnan P.nanPolicy .f64 s
  | .isqnanF80 => isqnan P.nanPolicy .f80 s
  | .isqnanF128 => isqnan P.nanPolicy .f128 s
  | .propnanF16 => propnan P.nanPolicy .f16 s
  | .propnanF32 => propnan P.nanPolicy .f32 s
  | .propnanF64 => propnan P.nanPolicy .f64 s
  | .propnanF80 => propnan P.nanPolicy .f80 s
  | .propnanF128 => propnan P.nanPolicy .f128 s
  | .propnan3F16 infzero => propnan3 P.nanPolicy .f16 infzero s
  | .propnan3F32 infzero => propnan3 P.nanPolicy .f32 infzero s
  | .propnan3F64 infzero => propnan3 P.nanPolicy .f64 infzero s
  | .propnan3F80 infzero => propnan3 P.nanPolicy .f80 infzero s
  | .propnan3F128 infzero => propnan3 P.nanPolicy .f128 infzero s
  | .defnanF16 => defnan P.nanPolicy .f16 s
  | .defnanF32 => defnan P.nanPolicy .f32 s
  | .defnanF64 => defnan P.nanPolicy .f64 s
  | .defnanF80 => defnan P.nanPolicy .f80 s
  | .defnanF128 => defnan P.nanPolicy .f128 s
  | .i2fF16I32 => execI2fF16I32 s
  | .i2fF16I64 => execI2fF16I64 s
  | .i2fF16U32 => execI2fF16U32 s
  | .i2fF16U64 => execI2fF16U64 s
  | .i2fF32I32 => execI2fF32I32 s
  | .i2fF32I64 => execI2fF32I64 s
  | .i2fF32U32 => execI2fF32U32 s
  | .i2fF32U64 => execI2fF32U64 s
  | .i2fF64I32 => execI2fF64I32 s
  | .i2fF64I64 => execI2fF64I64 s
  | .i2fF64U32 => execI2fF64U32 s
  | .i2fF64U64 => execI2fF64U64 s
  | .i2fF80I32 => execI2fF80I32 s
  | .i2fF80I64 => execI2fF80I64 s
  | .i2fF80U32 => execI2fF80U32 s
  | .i2fF80U64 => execI2fF80U64 s
  | .i2fF128I32 => execI2fF128I32 s
  | .i2fF128I64 => execI2fF128I64 s
  | .i2fF128U32 => execI2fF128U32 s
  | .i2fF128U64 => execI2fF128U64 s
  | .f2iF16I32 rz => execF2iF16I32 rz s
  | .f2iF16I64 rz => execF2iF16I64 rz s
  | .f2iF16U32 rz => execF2iF16U32 rz s
  | .f2iF16U64 rz => execF2iF16U64 rz s
  | .f2iF32I32 rz => execF2iF32I32 rz s
  | .f2iF32I64 rz => execF2iF32I64 rz s
  | .f2iF32U32 rz => execF2iF32U32 rz s
  | .f2iF32U64 rz => execF2iF32U64 rz s
  | .f2iF64I32 rz => execF2iF64I32 rz s
  | .f2iF64I64 rz => execF2iF64I64 rz s
  | .f2iF64U32 rz => execF2iF64U32 rz s
  | .f2iF64U64 rz => execF2iF64U64 rz s
  | .f2iF80I32 rz => execF2iF80I32 rz s
  | .f2iF80I64 rz => execF2iF80I64 rz s
  | .f2iF80U32 rz => execF2iF80U32 rz s
  | .f2iF80U64 rz => execF2iF80U64 rz s
  | .f2iF128I32 rz => execF2iF128I32 rz s
  | .f2iF128I64 rz => execF2iF128I64 rz s
  | .f2iF128U32 rz => execF2iF128U32 rz s
  | .f2iF128U64 rz => execF2iF128U64 rz s
  | .f2fF16F32 => f2fOp P.nanPolicy .f16 .f32 s
  | .f2fF16F64 => f2fOp P.nanPolicy .f16 .f64 s
  | .f2fF16F80 => f2fOp P.nanPolicy .f16 .f80 s
  | .f2fF16F128 => f2fOp P.nanPolicy .f16 .f128 s
  | .f2fF32F16 => f2fOp P.nanPolicy .f32 .f16 s
  | .f2fF32F64 => f2fOp P.nanPolicy .f32 .f64 s
  | .f2fF32F80 => f2fOp P.nanPolicy .f32 .f80 s
  | .f2fF32F128 => f2fOp P.nanPolicy .f32 .f128 s
  | .f2fF64F16 => f2fOp P.nanPolicy .f64 .f16 s
  | .f2fF64F32 => f2fOp P.nanPolicy .f64 .f32 s
  | .f2fF64F80 => f2fOp P.nanPolicy .f64 .f80 s
  | .f2fF64F128 => f2fOp P.nanPolicy .f64 .f128 s
  | .f2fF80F16 => f2fOp P.nanPolicy .f80 .f16 s
  | .f2fF80F32 => f2fOp P.nanPolicy .f80 .f32 s
  | .f2fF80F64 => f2fOp P.nanPolicy .f80 .f64 s
  | .f2fF80F128 => f2fOp P.nanPolicy .f80 .f128 s
  | .f2fF128F16 => f2fOp P.nanPolicy .f128 .f16 s
  | .f2fF128F32 => f2fOp P.nanPolicy .f128 .f32 s
  | .f2fF128F64 => f2fOp P.nanPolicy .f128 .f64 s
  | .f2fF128F80 => f2fOp P.nanPolicy .f128 .f80 s
  | .faddF16 => faddOp P.nanPolicy .f16 s
  | .faddF32 => faddOp P.nanPolicy .f32 s
  | .faddF64 => faddOp P.nanPolicy .f64 s
  | .faddF80 => faddOp P.nanPolicy .f80 s
  | .faddF128 => faddOp P.nanPolicy .f128 s
  | .fsubF16 => fsubOp P.nanPolicy .f16 s
  | .fsubF32 => fsubOp P.nanPolicy .f32 s
  | .fsubF64 => fsubOp P.nanPolicy .f64 s
  | .fsubF80 => fsubOp P.nanPolicy .f80 s
  | .fsubF128 => fsubOp P.nanPolicy .f128 s
  | .fmulF16 => fmulOp P.nanPolicy .f16 s
  | .fmulF32 => fmulOp P.nanPolicy .f32 s
  | .fmulF64 => fmulOp P.nanPolicy .f64 s
  | .fmulF80 => fmulOp P.nanPolicy .f80 s
  | .fmulF128 => fmulOp P.nanPolicy .f128 s
  | .fdivF16 => fdivOp P.nanPolicy .f16 s
  | .fdivF32 => fdivOp P.nanPolicy .f32 s
  | .fdivF64 => fdivOp P.nanPolicy .f64 s
  | .fdivF80 => fdivOp P.nanPolicy .f80 s
  | .fdivF128 => fdivOp P.nanPolicy .f128 s
  | .fremF16 => fremOp P.nanPolicy .f16 s
  | .fremF32 => fremOp P.nanPolicy .f32 s
  | .fremF64 => fremOp P.nanPolicy .f64 s
  | .fremF80 => fremOp P.nanPolicy .f80 s
  | .fremF128 => fremOp P.nanPolicy .f128 s
  | .fmaF16 negC negP negR halve => fmaOp P.nanPolicy .f16 negC negP negR halve s
  | .fmaF32 negC negP negR halve => fmaOp P.nanPolicy .f32 negC negP negR halve s
  | .fmaF64 negC negP negR halve => fmaOp P.nanPolicy .f64 negC negP negR halve s
  | .fmaF80 negC negP negR halve => fmaOp P.nanPolicy .f80 negC negP negR halve s
  | .fmaF128 negC negP negR halve => fmaOp P.nanPolicy .f128 negC negP negR halve s
  | .fsqrtF16 => fsqrtOp P.nanPolicy .f16 s
  | .fsqrtF32 => fsqrtOp P.nanPolicy .f32 s
  | .fsqrtF64 => fsqrtOp P.nanPolicy .f64 s
  | .fsqrtF80 => fsqrtOp P.nanPolicy .f80 s
  | .fsqrtF128 => fsqrtOp P.nanPolicy .f128 s
  | .frintF16 => frintOp P.nanPolicy .f16 s
  | .frintF32 => frintOp P.nanPolicy .f32 s
  | .frintF64 => frintOp P.nanPolicy .f64 s
  | .frintF80 => frintOp P.nanPolicy .f80 s
  | .frintF128 => frintOp P.nanPolicy .f128 s
  | .fscalbnF16 => fscalbnOp P.nanPolicy .f16 s
  | .fscalbnF32 => fscalbnOp P.nanPolicy .f32 s
  | .fscalbnF64 => fscalbnOp P.nanPolicy .f64 s
  | .fscalbnF80 => fscalbnOp P.nanPolicy .f80 s
  | .fscalbnF128 => fscalbnOp P.nanPolicy .f128 s
  | .feqF16 q => feqOp P.nanPolicy .f16 q s
  | .feqF32 q => feqOp P.nanPolicy .f32 q s
  | .feqF64 q => feqOp P.nanPolicy .f64 q s
  | .feqF80 q => feqOp P.nanPolicy .f80 q s
  | .feqF128 q => feqOp P.nanPolicy .f128 q s
  | .fleF16 q => fleOp P.nanPolicy .f16 q s
  | .fleF32 q => fleOp P.nanPolicy .f32 q s
  | .fleF64 q => fleOp P.nanPolicy .f64 q s
  | .fleF80 q => fleOp P.nanPolicy .f80 q s
  | .fleF128 q => fleOp P.nanPolicy .f128 q s
  | .fltF16 q => fltOp P.nanPolicy .f16 q s
  | .fltF32 q => fltOp P.nanPolicy .f32 q s
  | .fltF64 q => fltOp P.nanPolicy .f64 q s
  | .fltF80 q => fltOp P.nanPolicy .f80 q s
  | .fltF128 q => fltOp P.nanPolicy .f128 q s
  | .funordF16 q => funordOp P.nanPolicy .f16 q s
  | .funordF32 q => funordOp P.nanPolicy .f32 q s
  | .funordF64 q => funordOp P.nanPolicy .f64 q s
  | .funordF80 q => funordOp P.nanPolicy .f80 q s
  | .funordF128 q => funordOp P.nanPolicy .f128 q s
  | .fcmpF16 q => fcmpOp P.nanPolicy .f16 q s
  | .fcmpF32 q => fcmpOp P.nanPolicy .f32 q s
  | .fcmpF64 q => fcmpOp P.nanPolicy .f64 q s
  | .fcmpF80 q => fcmpOp P.nanPolicy .f80 q s
  | .fcmpF128 q => fcmpOp P.nanPolicy .f128 q s
  | .fminnumF16 => minMaxOp P.nanPolicy true false .f16 s
  | .fminnumF32 => minMaxOp P.nanPolicy true false .f32 s
  | .fminnumF64 => minMaxOp P.nanPolicy true false .f64 s
  | .fminnumF80 => minMaxOp P.nanPolicy true false .f80 s
  | .fminnumF128 => minMaxOp P.nanPolicy true false .f128 s
  | .fmaxnumF16 => minMaxOp P.nanPolicy false false .f16 s
  | .fmaxnumF32 => minMaxOp P.nanPolicy false false .f32 s
  | .fmaxnumF64 => minMaxOp P.nanPolicy false false .f64 s
  | .fmaxnumF80 => minMaxOp P.nanPolicy false false .f80 s
  | .fmaxnumF128 => minMaxOp P.nanPolicy false false .f128 s
  | .fminnummagF16 => minMaxOp P.nanPolicy true true .f16 s
  | .fminnummagF32 => minMaxOp P.nanPolicy true true .f32 s
  | .fminnummagF64 => minMaxOp P.nanPolicy true true .f64 s
  | .fminnummagF80 => minMaxOp P.nanPolicy true true .f80 s
  | .fminnummagF128 => minMaxOp P.nanPolicy true true .f128 s
  | .fmaxnummagF16 => minMaxOp P.nanPolicy false true .f16 s
  | .fmaxnummagF32 => minMaxOp P.nanPolicy false true .f32 s
  | .fmaxnummagF64 => minMaxOp P.nanPolicy false true .f64 s
  | .fmaxnummagF80 => minMaxOp P.nanPolicy false true .f80 s
  | .fmaxnummagF128 => minMaxOp P.nanPolicy false true .f128 s
  | .rdctl => execRdctl s
  | .wrctl => execWrctl s
  | .rdflg => execRdflg s
  | .wrflg => execWrflg s

/-- One step of the unit built with `P`. -/
def stepWith (P : Params) (s : State) : Out := stepBy (execWith P) s

/-- The machine built with `P`, as the host runs one. -/
def coreWith (P : Params) : Host.Core :=
  { State := State, Fault := Fault, Refusal := Refusal, step := stepWith P, reset := State.reset }

end Sys2Proof.Machine
end

