-- ==== Sys2Proof/Machine/Instances.lean ====
section
/-!
DEFINITION. Machine/Instances.lean: a system of several instances of the unit (spec/10_state.md R23, spec/60_exceptions.md R355), `NCTX` of them, all built
with one set of parameters. They share no state; one of them steps at a time (log entry 12).
-/

namespace Sys2Proof.Machine

open Sys2Proof.Config (Params)

/-- One step of the instance `k`; the others stay as they are. There is nothing to step where there is no instance `k`. -/
def stepInstance (P : Params) (k : Nat) (units : List State) : Host.Outcome (List State) Fault Refusal :=
  match units[k]? with
  | none => .next units
  | some s =>
    match stepWith P s with
    | .next t => .next (units.set k t)
    | .fault r => .fault r
    | .refused r => .refused r

/-- The system after reset: `NCTX` instances, numbered, each at its own reset (log entries 2, 3 and 12). -/
def instancesReset (P : Params) : List State := (List.range P.nctx).map fun k => { State.reset with unitNo := k }

end Sys2Proof.Machine
end

