-- ==== Sys2Proof/Machine/Pseudo.lean ====
section
/-!
DEFINITION. Machine/Pseudo.lean: the pseudo-operations of the notation (spec/30_encoding.md R88), each as the requests it stands for. They are the
requester's: no command word is theirs.
-/

namespace Sys2Proof.Machine.Pseudo

/-- The request of an instruction with operands `a` and `b`. -/
def ask (i : Instr) (a b : Wide) : Request := { cmd := encode i, a := a, b := b, c := 0 }

/-- `CLRFLG` is `WRFLG 0`. -/
def clrflg : Request := ask .wrflg 0 0

/-- `CMPGT a, b` is `CMPLT b, a`. -/
def cmpgt (n : Words) (a b : Wide) : Request := ask (Row.cmplt n) b a

/-- `CMPGE a, b` is `CMPLE b, a`. -/
def cmpge (n : Words) (a b : Wide) : Request := ask (Row.cmple n) b a

/-- `FGT a, b` is `FLT b, a`. -/
def fgt (F : Fmt) (q : Bool) (a b : Wide) : Request := ask (Row.flt F q) b a

/-- `FGE a, b` is `FLE b, a`. -/
def fge (F : Fmt) (q : Bool) (a b : Wide) : Request := ask (Row.fle F q) b a

/-- The mode word of the round-toward-zero wrapper: `RM` becomes `TZ`, the other fields of the saved word `m` stay. -/
def towardZero (m : Word) : Word := (m &&& 0xF8) + 2

/-- `F2I.F.T.RZ` seen as a wrapper: `RDCTL` gives `m`, `WRCTL` sets `TZ`, `F2I.F.T`, `WRCTL m`. -/
def rzWrapper (F : Fmt) (T : IntTy) (a : Wide) (m : Word) : List Request :=
  [ask .rdctl 0 0, ask .wrctl ((towardZero m).setWidth 256) 0, ask (Row.f2i F T false) a 0, ask .wrctl (m.setWidth 256) 0]

end Sys2Proof.Machine.Pseudo
end

