-- ==== Sys2Proof/Safety.lean ====
section
/-!
DEFINITION. Safety.lean: the terms that the claims are written in: what it is for an instruction to answer, to fault, to complete; the state's
invariant; the bits of the ports that a row may read and write; values as rational numbers; and rounding, said of numbers and not of bits.
-/

namespace Sys2Proof.Machine

/-! ## Outcomes -/

/-- The instruction completes: results `r` and `x` with `ERR = 0`, the flags `m` ORed into `FLG`, and NOTHING ELSE of the state changes
(spec/60_exceptions.md R340). -/
def Answers (i : Instr) (s : State) (r : Wide) (x : Dword) (m : Flags) : Prop :=
  exec i s = .next { s with flg := s.flg ||| m.setWidth 32, response := some { r := r, x := x, err := 0 } }

/-- The instruction breaks its contract: `HALT` is set, `ERR = 2`, and NOTHING ELSE of the state changes (R344). -/
def Violates (i : Instr) (s : State) : Prop :=
  exec i s = .next { s with halt := true, response := some { r := 0, x := 0, err := 2 } }

/-- The instruction ends as the rounding engine does: with its fault, or with its pattern of format `F` and its flags beside the flags `m`. -/
def Delivers (i : Instr) (s : State) (F : Fmt) (m : Flags) : Except ContractCause (Flagged Pat) → Prop
  | .error _ => Violates i s
  | .ok v => Answers i s (outPat F v.val) 0 (m ||| v.flags)

/-- The state whose request has the operands `a`, `b`, `c`, all else as in `s`. -/
def State.withOperands (a b : Wide) (c : Pat) (s : State) : State := { s with request := { s.request with a := a, b := b, c := c } }

/-- The rounding mode is one of the six (spec/10_state.md R25). -/
def LegalMode (ctl : Word) : Prop := ctl.toNat % 8 ≤ 5

/-- The rounding precision of F80 is one of the three (R29). -/
def LegalPrecision (ctl : Word) : Prop := ctl.toNat / 64 % 4 ≤ 2

/-- A rounding to the format `F` consults no reserved code of `CTL`. -/
def LegalFor (F : Fmt) (ctl : Word) : Prop := LegalMode ctl ∧ (F = .f80 → LegalPrecision ctl)

/-- The bits a rounding to `F` discards: `G(F)`, for F80 by `CTL.RP` (spec/42_round_pack.md R181). -/
def discarded (ctl : Word) (F : Fmt) : ℕ := if F = .f80 then [63, 74, 103].getD (ctl.toNat / 64 % 4) 0 else F.G

/-! ## The invariant -/

/-- The reserved bits of both registers are 0 (R24, R30). -/
def ReservedZero (s : State) : Prop := s.ctl.toNat < 2 ^ 8 ∧ s.flg.toNat < 2 ^ 7

/-! ## What a row may read and write (spec/30_encoding.md R75) -/

/-- The port bits a row reads and writes, as masks. -/
structure PortMasks where
  a : Wide
  b : Wide
  c : Pat
  r : Wide
  x : Dword
  deriving DecidableEq, Repr

/-- The low `k` bits. -/
def low {w : Nat} (k : Nat) : BitVec w := BitVec.ofNat w (2 ^ k - 1)

/-- `K` by format code (spec/41_pack_unpack.md R140). -/
def codeK (f : BitVec 3) : Nat := [16, 32, 64, 80, 128].getD f.toNat 0

/-- `M` by format code. -/
def codeM (f : BitVec 3) : Nat := [10, 23, 52, 64, 112].getD f.toNat 0

/-- `W` by format code. -/
def codeW (f : BitVec 3) : Nat := [19, 35, 67, 128, 226].getD f.toNat 0

/-- `w` by integer type code (spec/30_encoding.md R72). -/
def codeInt (f : BitVec 3) : Nat := [32, 64, 32, 64].getD f.toNat 0

/-- `64n` by word-count code (R73). -/
def codeWords (f : BitVec 3) : Nat := 64 * (f.toNat + 1)

/-- The columns `Reads` and `Writes` of R75. -/
def portMasks (c : Command) : PortMasks :=
  let K := codeK c.fmt
  let n := codeWords c.fmt
  match c.opc.toNat with
  | 0x00 => ⟨low n, low n, 0, low n, low 1⟩
  | 0x01 => ⟨low n, low n, 0, low n, low 1⟩
  | 0x02 => ⟨low n, low n, 0, low 1, 0⟩
  | 0x03 => ⟨low n, low n, 0, low 1, 0⟩
  | 0x04 => ⟨low n, low n, 0, low 1, 0⟩
  | 0x05 => ⟨low n, low n, 0, low 1, 0⟩
  | 0x06 => ⟨low n, low 64, 0, low n, 0⟩
  | 0x07 => ⟨low n, low 64, 0, low n, 0⟩
  | 0x08 => ⟨low n, low 64, 0, low n, 0⟩
  | 0x09 => ⟨low n, 0, 0, low 9, 0⟩
  | 0x0A => ⟨low n, low 64, 0, low (n + 64), 0⟩
  | 0x0B => ⟨low 128, low 128, 0, low 256, 0⟩
  | 0x0C => ⟨low 128, low 64, 0, low 64, 0⟩
  | 0x0D => ⟨low 128, low 64, 0, low 64, low 64⟩
  | 0x20 => ⟨low K, 0, 0, low 1, 0⟩
  | 0x21 => ⟨low K, 0, 0, low 15, 0⟩
  | 0x22 => ⟨low K, 0, 0, low (codeM c.fmt), 0⟩
  | 0x23 => ⟨if c.fmt = 3 then low 64 else low K, low 33, 0, low K, 0⟩
  | 0x30 => ⟨low (codeW c.fmt), low 33, 0, low K, 0⟩
  | 0x31 => ⟨low (codeW c.fmt), low 33, 0, low K, 0⟩
  | 0x32 => ⟨low 128, 1 <<< 32, 0, low (codeInt c.fmt2), 0⟩
  | 0x40 => ⟨low K, 0, 0, low 1, 0⟩
  | 0x41 => ⟨low K, 0, 0, low 1, 0⟩
  | 0x42 => ⟨low K, low K, 0, low K, 0⟩
  | 0x43 => ⟨low K, low K, low K, low K, 0⟩
  | 0x44 => ⟨0, 0, 0, low K, 0⟩
  | 0x50 => ⟨low (codeInt c.fmt2), 0, 0, low K, 0⟩
  | 0x51 => ⟨low K, 0, 0, low (codeInt c.fmt2), 0⟩
  | 0x52 => ⟨low K, 0, 0, low (codeK c.fmt2), 0⟩
  | 0x60 => ⟨low K, low K, 0, low K, 0⟩
  | 0x61 => ⟨low K, low K, 0, low K, 0⟩
  | 0x62 => ⟨low K, low K, 0, low K, 0⟩
  | 0x63 => ⟨low K, low K, 0, low K, 0⟩
  | 0x64 => ⟨low K, low K, 0, low K, 0⟩
  | 0x65 => ⟨low K, low K, low K, low K, 0⟩
  | 0x66 => ⟨low K, 0, 0, low K, 0⟩
  | 0x67 => ⟨low K, 0, 0, low K, 0⟩
  | 0x68 => ⟨low K, low 32, 0, low K, 0⟩
  | 0x70 => ⟨low K, low K, 0, low 1, 0⟩
  | 0x71 => ⟨low K, low K, 0, low 1, 0⟩
  | 0x72 => ⟨low K, low K, 0, low 1, 0⟩
  | 0x73 => ⟨low K, low K, 0, low 1, 0⟩
  | 0x74 => ⟨low K, low K, 0, low 2, 0⟩
  | 0x75 => ⟨low K, low K, 0, low K, 0⟩
  | 0x76 => ⟨low K, low K, 0, low K, 0⟩
  | 0x77 => ⟨low K, low K, 0, low K, 0⟩
  | 0x78 => ⟨low K, low K, 0, low K, 0⟩
  | 0x80 => ⟨0, 0, 0, low 32, 0⟩
  | 0x81 => ⟨low 32, 0, 0, 0, 0⟩
  | 0x82 => ⟨0, 0, 0, low 32, 0⟩
  | 0x83 => ⟨low 32, 0, 0, 0, 0⟩
  | _ => ⟨0, 0, 0, 0, 0⟩

/-- The requests `q` and `q'` agree on every port bit that the instruction may read. -/
def SameOperands (i : Instr) (q q' : Request) : Prop :=
  let p := portMasks i.command
  q.a &&& p.a = q'.a &&& p.a ∧ q.b &&& p.b = q'.b &&& p.b ∧ q.c &&& p.c = q'.c &&& p.c

/-- The destination `f'` of an `F2F` from `f` cannot hold every value of `f`: a narrowing conversion (spec/44_convert.md R240, by format code). -/
def narrowing (f f' : BitVec 3) : Bool := decide (f'.toNat < f.toNat)

/-- The flags that a row may set: the cause list of spec/60_exceptions.md R341, and for `FREM`, whose result is exact, R259. -/
def flagMask (c : Command) : Flags :=
  let engine : Flags := Flag.overflow ||| Flag.underflow ||| Flag.inexact ||| Flag.outputDenormal
  match c.opc.toNat with
  | 0x30 => engine
  | 0x31 => engine
  | 0x32 => Flag.invalid ||| Flag.inexact
  | 0x42 => Flag.invalid
  | 0x43 => Flag.invalid
  | 0x50 => Flag.inexact ||| Flag.outputDenormal ||| (if c.fmt = 0 then Flag.overflow else 0)
  | 0x51 => Flag.invalid ||| Flag.inexact ||| Flag.inputDenormal
  | 0x52 => Flag.invalid ||| Flag.inputDenormal ||| (if narrowing c.fmt c.fmt2 then engine else Flag.outputDenormal)
  | 0x60 => Flag.invalid ||| Flag.inputDenormal ||| engine
  | 0x61 => Flag.invalid ||| Flag.inputDenormal ||| engine
  | 0x62 => Flag.invalid ||| Flag.inputDenormal ||| engine
  | 0x63 => Flag.invalid ||| Flag.inputDenormal ||| Flag.divByZero ||| engine
  | 0x64 => Flag.invalid ||| Flag.inputDenormal ||| Flag.outputDenormal
  | 0x65 => Flag.invalid ||| Flag.inputDenormal ||| engine
  | 0x66 => Flag.invalid ||| Flag.inputDenormal ||| Flag.inexact ||| Flag.outputDenormal
  | 0x67 => Flag.invalid ||| Flag.inputDenormal ||| Flag.inexact
  | 0x68 => Flag.invalid ||| Flag.inputDenormal ||| engine
  | 0x70 => Flag.invalid ||| Flag.inputDenormal
  | 0x71 => Flag.invalid ||| Flag.inputDenormal
  | 0x72 => Flag.invalid ||| Flag.inputDenormal
  | 0x73 => Flag.invalid ||| Flag.inputDenormal
  | 0x74 => Flag.invalid ||| Flag.inputDenormal
  | 0x75 => Flag.invalid ||| Flag.inputDenormal
  | 0x76 => Flag.invalid ||| Flag.inputDenormal
  | 0x77 => Flag.invalid ||| Flag.inputDenormal
  | 0x78 => Flag.invalid ||| Flag.inputDenormal
  | _ => 0

/-! ## Values -/

/-- `Val(F, a)` of a finite pattern, as a rational number (spec/41_pack_unpack.md R143). -/
def valQ (F : Fmt) (a : Pat) : ℚ :=
  (if sign F a then -1 else 1) *
    (if F.explicitBit then (sigf F a : ℚ) * 2 ^ ((max (expf F a) 1 : ℕ) - (F.bias : ℤ) - 63)
     else if expf F a = 0 then (sigf F a : ℚ) * 2 ^ (F.emin - F.FB)
     else (2 ^ F.FB + sigf F a : ℚ) * 2 ^ ((expf F a : ℤ) - F.bias - F.FB))

/-- Neither infinity nor NaN. -/
def isFinite (F : Fmt) (a : Pat) : Bool := expf F a != F.emaxf

/-- `Ext(a) < Ext(b)`, the order of the extended reals (spec/46_compare_minmax.md R290), for patterns that are no NaN. -/
def ExtLt (F : Fmt) (a b : Pat) : Prop :=
  (isInf F a = true ∧ sign F a = true ∧ ¬(isInf F b = true ∧ sign F b = true)) ∨
  (isInf F b = true ∧ sign F b = false ∧ ¬(isInf F a = true ∧ sign F a = false)) ∨
  (isInf F a = false ∧ isInf F b = false ∧ valQ F a < valQ F b)

/-- `|Ext(a)| < |Ext(b)|`. -/
def ExtMagLt (F : Fmt) (a b : Pat) : Prop :=
  isInf F a = false ∧ (isInf F b = true ∨ |valQ F a| < |valQ F b|)

/-- The value of an integer of type `T` as its `w` bits read (spec/44_convert.md R232). -/
def intBits (T : IntTy) (v : ℤ) : Wide := BitVec.ofInt 256 (v % 2 ^ T.width)

/-- `IMAX(T)`. -/
def imax (T : IntTy) : ℤ := if T.signed then 2 ^ (T.width - 1) - 1 else 2 ^ T.width - 1

/-- `IMIN(T)`. -/
def imin (T : IntTy) : ℤ := if T.signed then -2 ^ (T.width - 1) else 0

/-! ## Rounding -/

/-- The natural number `q` is the magnitude `x` of a number of sign `sgn`, rounded in the mode (spec/42_round_pack.md R172, R177, R182). -/
def RoundsTo (mode : RMode) (sgn : Bool) (x : ℝ) (q : ℕ) : Prop :=
  match mode with
  | .ne => |x - q| ≤ 1 / 2 ∧ (|x - q| = 1 / 2 → q % 2 = 0)
  | .na => |x - q| ≤ 1 / 2 ∧ (|x - q| = 1 / 2 → x < q)
  | .tz => (q : ℝ) ≤ x ∧ x < q + 1
  | .tp => if sgn then (q : ℝ) ≤ x ∧ x < q + 1 else x ≤ q ∧ (q : ℝ) < x + 1
  | .tn => if sgn then x ≤ q ∧ (q : ℝ) < x + 1 else (q : ℝ) ≤ x ∧ x < q + 1
  | .odd => |x - q| < 1 ∧ (x ≠ q → q % 2 = 1)

/-- `z = floor(t) | (1 if t is not an integer else 0)`: the jam of a real number (R184). -/
def IsJam (t : ℝ) (z : ℕ) : Prop := z = ⌊t⌋₊ ||| (if t = ⌊t⌋₊ then 0 else 1)

/-- `(zExp, zSig)` is the canonical engine input of the real number `r > 0` (R184): normalised, the tail jammed into bit 0. -/
def EngineInput (F : Fmt) (r : ℝ) (zExp : ℤ) (zSig : ℕ) : Prop :=
  2 ^ F.N ≤ zSig ∧ zSig < 2 ^ (F.N + 1) ∧ IsJam (r * 2 ^ ((F.bias : ℤ) + F.N - 1 - zExp)) zSig

/-- The instruction ends by rounding the real number `r > 0`, with sign `sgn`, to the format `F`: `RoundPack(F, sgn, r)` of R184. -/
def RoundPacks (i : Instr) (s : State) (F : Fmt) (m : Flags) (sgn : Bool) (r : ℝ) : Prop :=
  ∃ zExp zSig, EngineInput F r zExp zSig ∧ Delivers i s F m (rpack s.ctl F sgn zExp zSig)

/-- The same at the format's full precision: `RoundPackFull(F, sgn, r)` of spec/44_convert.md R230. -/
def RoundPacksFull (i : Instr) (s : State) (F : Fmt) (m : Flags) (sgn : Bool) (r : ℝ) : Prop :=
  ∃ zExp zSig, EngineInput F r zExp zSig ∧ Delivers i s F m (rpackFull s.ctl F sgn zExp zSig)

end Sys2Proof.Machine
end

