-- ==== Sys2Proof/Certificates/Slice0/Obligations.lean ====
section
/-!
DEFINITION. Certificates/Slice0/Obligations.lean: the statements for the provers. Each says of which rule of spec/ it is the formal text.
-/

open Sys2Proof Sys2Proof.Machine

/-! ## Decoding and encoding (spec/30_encoding.md) -/

/-- Decoding an encoded instruction gives it back, with every modifier bit (R70 to R75). -/
def Obligations.DecodeEncode : Prop := ∀ i : Instr, decode (encode i) = .ok i

/-- A legal word is read in one way only: the word of the instruction decoded is the word itself, every bit of it (R75, R76). -/
def Obligations.EncodeDecode : Prop := ∀ (w : Word) (i : Instr), decode w = .ok i → encode i = w

/-- R76: the five checks in their order, the first that fails naming the cause; a word that passes all five is an instruction. -/
def Obligations.DecodeChecks : Prop :=
  ∀ w : Word,
    let c := Command.ofWord w
    (c.reservedOk = false → decode w = .error .reservedBits) ∧
    (c.reservedOk = true → c.opcodeOk = false → decode w = .error .badOpcode) ∧
    (c.reservedOk = true → c.opcodeOk = true → c.formatOk = false → decode w = .error .badFormat) ∧
    (c.reservedOk = true → c.opcodeOk = true → c.formatOk = true → c.format2Ok = false → decode w = .error .badFormat2) ∧
    (c.reservedOk = true → c.opcodeOk = true → c.formatOk = true → c.format2Ok = true → c.modifierOk = false →
      decode w = .error .badModifier) ∧
    (c.wellFormed = true → ∃ i, decode w = .ok i)

/-- One word of each family of R75, and one illegal word for each cause (spec/96_test_vectors_part2.md section 9.1). -/
def Obligations.DecodeWords : Prop :=
  decode 0x00000100 = .ok .add128 ∧ decode 0x0000020A = .ok .mul192x64 ∧ decode 0x0000010D = .ok .divq128 ∧
  decode 0x00000323 = .ok .packF80 ∧ decode 0x00001832 = .ok .rpackiU64 ∧ decode 0x00004143 = .ok (.propnan3F32 true) ∧
  decode 0x00004151 = .ok (.f2iF32I32 true) ∧ decode 0x00001952 = .ok .f2fF32F80 ∧
  decode 0x0003C165 = .ok (.fmaF32 true true true true) ∧ decode 0x00004172 = .ok (.fltF32 true) ∧ decode 0x00000081 = .ok .wrctl ∧
  decode 0x00040060 = .error .reservedBits ∧ decode 0x00000390 = .error .badOpcode ∧ decode 0x0000030A = .error .badFormat ∧
  decode 0x00000952 = .error .badFormat2 ∧ decode 0x00008151 = .error .badModifier

/-! ## The machine -/

/-- R347: a request is sampled, and if the unit is not halted and its word decodes, the step is the instruction's meaning on the state that
holds the request. -/
def Obligations.StepRunsDecoded : Prop :=
  ∀ (s : State) (q : Request) (rest : List Input) (i : Instr),
    s.inputs = .request q :: rest → s.halt = false → decode q.cmd = .ok i →
    step s = exec i { s with request := q, response := none, inputs := rest }

/-- R345: while `HALT = 1` every request, legal or not, is answered `ERR = 2`, `R = X = 0`, and changes nothing; only reset clears `HALT`. -/
def Obligations.HaltedUnit : Prop :=
  (∀ (s : State) (q : Request) (rest : List Input), s.inputs = .request q :: rest → s.halt = true →
    step s = .next { s with request := q, response := some { r := 0, x := 0, err := 2 }, inputs := rest }) ∧
  (∀ s t : State, step s = .next t → s.halt = true → t.halt = false → ∃ abandoned rest, s.inputs = .reset abandoned :: rest)

/-- R86: every word that R75 does not list, the codes 0x90 to 0x9F among them, is answered `ERR = 1` and changes no state. -/
def Obligations.IllegalCommand : Prop :=
  ∀ (s : State) (q : Request) (rest : List Input), s.inputs = .request q :: rest → s.halt = false →
    ((Command.ofWord q.cmd).wellFormed = false ∨ (0x90 ≤ q.cmd.toNat % 256 ∧ q.cmd.toNat % 256 ≤ 0x9F)) →
    step s = .next { s with request := q, response := some { r := 0, x := 0, err := 1 }, inputs := rest }

/-- R340: a request ends in exactly one of three ways, with the state change of the table. -/
def Obligations.ThreeOutcomes : Prop :=
  ∀ (s : State) (q : Request) (rest : List Input), s.inputs = .request q :: rest →
    ∃ t resp, step s = .next t ∧ t.response = some resp ∧ t.request = q ∧ t.inputs = rest ∧ t.resets = s.resets ∧ t.unitNo = s.unitNo ∧
      ((resp.err = 0 ∧ s.halt = false ∧ t.halt = false ∧ ∃ i, decode q.cmd = .ok i ∧
          (i ≠ .wrctl → t.ctl = s.ctl) ∧ (i = .wrctl → t.ctl = (q.a.setWidth 8).setWidth 32 ∧ t.flg = s.flg) ∧
          (i ≠ .wrflg → ∃ m : Flags, t.flg = s.flg ||| m.setWidth 32) ∧ (i = .wrflg → t.flg = (q.a.setWidth 7).setWidth 32)) ∨
       (resp = { r := 0, x := 0, err := 1 } ∧ s.halt = false ∧ t.halt = false ∧ (∃ c, decode q.cmd = .error c) ∧
          t.ctl = s.ctl ∧ t.flg = s.flg) ∨
       (resp = { r := 0, x := 0, err := 2 } ∧ t.halt = true ∧ t.ctl = s.ctl ∧ t.flg = s.flg))

/-- Which steps stop, and what a step with nothing presented does. The clauses are the model's choice in the face of R57, R340 and R36: that no step ends in a
fault, the spec's faults being answers of the unit, is log entry 6; that overlapping requests are an input of a kind of their own, which the step
refuses, is log entry 7; that a step with no input waits, with the registers as they are and nothing on the ports, is log entry 1. -/
def Obligations.StepStops : Prop :=
  ∀ s : State,
    (∀ r, step s ≠ .fault r) ∧
    (∀ r, step s = .refused r ↔ r = .overlappingRequests ∧ ∃ q q' rest, s.inputs = .overlap q q' :: rest) ∧
    (s.inputs = [] → step s = .next { s with request := Request.absent, response := none })

/-- R24, R30: no step makes a reserved bit of `CTL` or `FLG` one. -/
def Obligations.ReservedStaysZero : Prop := ∀ s t : State, ReservedZero s → step s = .next t → ReservedZero t

/-- R37: the reserved bits are zero and `HALT` is 0 in the state after reset. -/
def Obligations.ResetReservedZero : Prop := ReservedZero State.reset ∧ State.reset.halt = false

/-- R380: what the reset input leaves, whatever it leaves in `CTL[7:0]` and `FLG[6:0]`, a request that it abandons included; and nothing
else clears `HALT`. -/
def Obligations.ResetInput : Prop :=
  (∀ (s : State) (abandoned : Option Request) (rest : List Input), s.inputs = .reset abandoned :: rest →
    ∃ t, step s = .next t ∧ t.halt = false ∧ t.ctl.toNat < 2 ^ 8 ∧ t.flg.toNat < 2 ^ 7 ∧ t.response = none ∧
      t.request = Request.absent ∧ t.inputs = rest ∧ t.unitNo = s.unitNo) ∧
  (∀ s t : State, step s = .next t → s.halt = true → (∀ abandoned rest, s.inputs ≠ .reset abandoned :: rest) → t.halt = true)

/-- R382: after a reset, whatever it left, `WRCTL v` and `WRFLG f` in either order leave `CTL[7:0] = v[7:0]`, `FLG[6:0] = f[6:0]`, not halted. -/
def Obligations.BootSequence : Prop :=
  ∀ (s : State) (abandoned : Option Request) (v f : Wide) (b b' : Wide) (c c' : Pat) (first : Bool) (rest : List Input),
    let wrctl : Input := .request { cmd := 0x81, a := v, b := b, c := c }
    let wrflg : Input := .request { cmd := 0x83, a := f, b := b', c := c' }
    s.inputs = .reset abandoned :: (if first then wrctl :: wrflg :: rest else wrflg :: wrctl :: rest) →
    ∃ t0 t1 t2, step s = .next t0 ∧ step t0 = .next t1 ∧ step t1 = .next t2 ∧
      t2.halt = false ∧ t2.ctl = (v.setWidth 8).setWidth 32 ∧ t2.flg = (f.setWidth 7).setWidth 32 ∧ t2.inputs = rest ∧
      t1.response = some { r := 0, x := 0, err := 0 } ∧ t2.response = some { r := 0, x := 0, err := 0 }

/-- R32: operations read `CTL` and never write it; only `WRCTL` does, and a reset. -/
def Obligations.OnlyWrctlWritesCtl : Prop :=
  (∀ (i : Instr) (s t : State), exec i s = .next t → i ≠ .wrctl → t.ctl = s.ctl) ∧
  (∀ s t : State, step s = .next t → t.ctl ≠ s.ctl →
    (∃ q rest, s.inputs = .request q :: rest ∧ s.halt = false ∧ decode q.cmd = .ok .wrctl) ∨
    ∃ abandoned rest, s.inputs = .reset abandoned :: rest)

/-- R31: flags accumulate; the mask an operation sets depends on its operands and `CTL` and never on the old `FLG`; a flag goes from 1 to 0
only by `WRFLG` or reset. -/
def Obligations.FlagsAccumulate : Prop :=
  (∀ (i : Instr) (q : Request) (ctl : Word), i ≠ .wrflg →
    ∃ m : Flags, ∀ s : State, s.request = q → s.ctl = ctl → ∃ t, exec i s = .next t ∧ t.flg = s.flg ||| m.setWidth 32) ∧
  (∀ (s t : State) (k : ℕ), step s = .next t → s.flg.getLsbD k = true → t.flg.getLsbD k = false →
    (∃ q rest, s.inputs = .request q :: rest ∧ s.halt = false ∧ decode q.cmd = .ok .wrflg) ∨
    ∃ abandoned rest, s.inputs = .reset abandoned :: rest)

/-- R20: an operation reads no port bit that R75 does not list and nothing that an earlier request left but `CTL`, `FLG` and `HALT`; it writes no
bit of `R` or `X` that R75 does not list; with `ERR` other than 0 both are 0. -/
def Obligations.UnreadBits : Prop :=
  (∀ (i : Instr) (s s' : State), s.ctl = s'.ctl → s.flg = s'.flg → s.halt = s'.halt → SameOperands i s.request s'.request →
    ∃ t t', exec i s = .next t ∧ exec i s' = .next t' ∧
      t.response = t'.response ∧ t.ctl = t'.ctl ∧ t.flg = t'.flg ∧ t.halt = t'.halt) ∧
  (∀ (i : Instr) (s t : State) (resp : Response), exec i s = .next t → t.response = some resp →
    resp.r &&& ~~~(portMasks i.command).r = 0 ∧ resp.x &&& ~~~(portMasks i.command).x = 0 ∧
    (resp.err ≠ 0 → resp.r = 0 ∧ resp.x = 0))

/-- R33: no operation reads a flag to decide anything; only `RDFLG` reads `FLG`. -/
def Obligations.OnlyRdflgReadsFlags : Prop :=
  ∀ (i : Instr) (s : State) (f : Word), i ≠ .rdflg →
    ∃ t t', exec i s = .next t ∧ exec i { s with flg := f } = .next t' ∧
      t.response = t'.response ∧ t.halt = t'.halt ∧ t.ctl = t'.ctl

/-- R341, R259: an operation sets no flag but those that the cause list gives it; `OVERFLOW` and `UNDERFLOW` always come with `INEXACT`, and a
flushed result sets neither of the three. -/
def Obligations.FlagCauses : Prop :=
  ∀ (i : Instr) (s : State), i ≠ .wrflg →
    ∃ (t : State) (m : Flags), exec i s = .next t ∧ t.flg = s.flg ||| m.setWidth 32 ∧ m &&& ~~~(flagMask i.command) = 0 ∧
      (m.getLsbD 2 = true → m.getLsbD 4 = true) ∧ (m.getLsbD 3 = true → m.getLsbD 4 = true) ∧
      (m.getLsbD 6 = true → m.getLsbD 2 = false ∧ m.getLsbD 3 = false ∧ m.getLsbD 4 = false)

/-- Every instruction but the two divides completes with `ERR = 0` when `CTL` holds no reserved code, whatever its operands; the state keeps all
but the written register and the flags (R340, R344). -/
def Obligations.CompletesWithLegalModes : Prop :=
  ∀ (i : Instr) (s : State), LegalMode s.ctl → LegalPrecision s.ctl → i ≠ .divest128 → i ≠ .divq128 →
    ∃ t resp, exec i s = .next t ∧ t.response = some resp ∧ resp.err = 0 ∧ t.halt = s.halt ∧ t.request = s.request ∧
      t.inputs = s.inputs ∧ t.resets = s.resets ∧ t.unitNo = s.unitNo ∧ (i ≠ .wrctl → t.ctl = s.ctl) ∧
      (i ≠ .wrflg → ∃ m : Flags, t.flg = s.flg ||| m.setWidth 32)

/-- R25, R382: the multi-word primitives (the divides apart), the accessors, `PACK`, the NaN operations, the comparisons and min/max, and the
status accesses never consult the modes: they complete at every `CTL`. Those that R382 names answer the same whatever `CTL` and `FLG` hold. -/
def Obligations.ModeBlind : Prop :=
  (∀ (i : Instr) (s : State),
    (i.command.opc.toNat ≤ 0x0B ∨ (0x20 ≤ i.command.opc.toNat ∧ i.command.opc.toNat ≤ 0x23) ∨
      (0x40 ≤ i.command.opc.toNat ∧ i.command.opc.toNat ≤ 0x44) ∨ 0x70 ≤ i.command.opc.toNat) →
    ∃ t resp, exec i s = .next t ∧ t.response = some resp ∧ resp.err = 0) ∧
  (∀ (i : Instr) (s : State) (ctl flg : Word),
    (i.command.opc.toNat ≤ 0x0D ∨ (0x20 ≤ i.command.opc.toNat ∧ i.command.opc.toNat ≤ 0x23) ∨
      i.command.opc.toNat = 0x40 ∨ i.command.opc.toNat = 0x41 ∨ i.command.opc.toNat = 0x44) →
    ∃ t t', exec i s = .next t ∧ exec i { s with ctl := ctl, flg := flg } = .next t' ∧ t.response = t'.response ∧
      t.flg = s.flg ∧ t'.flg = flg)

/-! ## Multi-word primitives (spec/40_multiword.md) -/

/-- R100, R101: sum and carry, difference and borrow, for every width. -/
def Obligations.MultiWordAddSub : Prop :=
  ∀ (n : Words) (s : State),
    let a : BitVec n.bits := s.request.a.setWidth n.bits
    let b : BitVec n.bits := s.request.b.setWidth n.bits
    Answers (Row.add n) s ((a + b).setWidth 256) (if 2 ^ n.bits ≤ a.toNat + b.toNat then 1 else 0) 0 ∧
    Answers (Row.sub n) s ((a - b).setWidth 256) (if a.toNat < b.toNat then 1 else 0) 0

/-- R102 to R105: the four compares, unsigned, of the low `64n` bits. -/
def Obligations.MultiWordCompares : Prop :=
  ∀ (n : Words) (s : State),
    let a : BitVec n.bits := s.request.a.setWidth n.bits
    let b : BitVec n.bits := s.request.b.setWidth n.bits
    Answers (Row.cmpeq n) s (if a = b then 1 else 0) 0 0 ∧ Answers (Row.cmpne n) s (if a = b then 0 else 1) 0 0 ∧
    Answers (Row.cmplt n) s (if BitVec.ult a b then 1 else 0) 0 0 ∧ Answers (Row.cmple n) s (if BitVec.ult b a then 0 else 1) 0 0

/-- R106, R107: the logical shifts, every 64-bit count included. -/
def Obligations.MultiWordShifts : Prop :=
  ∀ (n : Words) (s : State),
    let a : BitVec n.bits := s.request.a.setWidth n.bits
    let c : ℕ := (s.request.b.setWidth 64).toNat
    Answers (Row.shl n) s ((a <<< c).setWidth 256) 0 0 ∧ Answers (Row.shr n) s ((a >>> c).setWidth 256) 0 0 ∧
    (n.bits ≤ c → Answers (Row.shl n) s 0 0 0 ∧ Answers (Row.shr n) s 0 0 0)

/-- R108: the jamming shift and its law: shifting by `c1` and then by `c2` is shifting by `c1 + c2`. -/
def Obligations.JammingShift : Prop :=
  (∀ (n : Words) (s : State),
    let a : BitVec n.bits := s.request.a.setWidth n.bits
    let c : ℕ := (s.request.b.setWidth 64).toNat
    Answers (Row.shrj n) s ((a >>> c ||| (if a.toNat % 2 ^ c = 0 then 0 else 1)).setWidth 256) 0 0) ∧
  (∀ (n : Words) (s : State) (a r r' : Wide) (c : Pat) (c1 c2 : ℕ), c1 + c2 < 2 ^ 64 →
    Answers (Row.shrj n) (s.withOperands a (BitVec.ofNat 256 c1) c) r 0 0 →
    Answers (Row.shrj n) (s.withOperands r (BitVec.ofNat 256 c2) c) r' 0 0 →
    Answers (Row.shrj n) (s.withOperands a (BitVec.ofNat 256 (c1 + c2)) c) r' 0 0)

/-- R109: the count of leading zeros is the left shift that brings the top set bit to the top and loses none; the full width for 0. -/
def Obligations.CountLeadingZeros : Prop :=
  ∀ (n : Words) (s : State),
    let a : ℕ := (s.request.a.setWidth n.bits).toNat
    ∃ k : ℕ, Answers (Row.clz n) s (BitVec.ofNat 256 k) 0 0 ∧ (a = 0 → k = n.bits) ∧
      (a ≠ 0 → k < n.bits ∧ 2 ^ (n.bits - 1) ≤ a * 2 ^ k ∧ a * 2 ^ k < 2 ^ n.bits)

/-- R110, R111: the products are exact. -/
def Obligations.MultiWordProducts : Prop :=
  (∀ (n : Words) (i : Instr) (s : State), Row.mul n = some i →
    let a : ℕ := (s.request.a.setWidth n.bits).toNat
    let b : ℕ := (s.request.b.setWidth 64).toNat
    a * b < 2 ^ (n.bits + 64) ∧ Answers i s (BitVec.ofNat 256 (a * b)) 0 0) ∧
  (∀ s : State,
    let a : ℕ := (s.request.a.setWidth 128).toNat
    let b : ℕ := (s.request.b.setWidth 128).toNat
    a * b < 2 ^ 256 ∧ Answers .mul128x128 s (BitVec.ofNat 256 (a * b)) 0 0)

/-- R131: the estimate is low by at most 2 and never below 0, by an amount that the two operands alone decide; the two preconditions, in
their order, are contract violations. -/
def Obligations.DivideEstimate : Prop :=
  ∃ err : BitVec 128 → BitVec 64 → ℕ, ∀ s : State,
    let a : BitVec 128 := s.request.a.setWidth 128
    let b : BitVec 64 := s.request.b.setWidth 64
    let q : ℕ := a.toNat / b.toNat
    (b = 0 → Violates .divest128 s) ∧ (b ≠ 0 → b.toNat ≤ a.toNat / 2 ^ 64 → Violates .divest128 s) ∧
    (a.toNat / 2 ^ 64 < b.toNat →
      q < 2 ^ 64 ∧ err a b ≤ 2 ∧ err a b ≤ q ∧ Answers .divest128 s (BitVec.ofNat 256 (q - err a b)) 0 0)

/-- R133, R132: the exact quotient and remainder, which the trial-subtract loop reaches in at most two iterations from every estimate that R131
allows; the same preconditions. -/
def Obligations.DivideExact : Prop :=
  ∀ s : State,
    let a : ℕ := (s.request.a.setWidth 128).toNat
    let b : ℕ := (s.request.b.setWidth 64).toNat
    (b = 0 → Violates .divq128 s) ∧ (b ≠ 0 → b ≤ a / 2 ^ 64 → Violates .divq128 s) ∧
    (a / 2 ^ 64 < b → Answers .divq128 s (BitVec.ofNat 256 (a / b)) (BitVec.ofNat 64 (a % b)) 0 ∧
      ∀ d : ℕ, d ≤ 2 → d ≤ a / b →
        (a / b - d) * b ≤ a ∧ a - (a / b - d) * b < 3 * b ∧
        trialSubtract b 2 (a / b - d, a - (a / b - d) * b) = (a / b, a % b))

/-! ## Fields and packer (spec/41_pack_unpack.md) -/

/-- R145 to R147: the three accessors are the fields of R51's layout, of every pattern. -/
def Obligations.Accessors : Prop :=
  ∀ (F : Fmt) (s : State),
    Answers (Row.xsign F) s (if s.request.a.getLsbD (F.K - 1) then 1 else 0) 0 0 ∧
    Answers (Row.xexp F) s ((s.request.a.extractLsb' F.M F.EW).setWidth 256) 0 0 ∧
    Answers (Row.xsig F) s ((s.request.a.extractLsb' 0 F.M).setWidth 256) 0 0

/-- R148: `PACK` is an addition modulo `2^K` for the implicit formats, two words side by side for F80. -/
def Obligations.Packer : Prop :=
  (∀ (F : Fmt) (s : State), F ≠ .f80 →
    Answers (Row.pack F) s
      (((if s.request.b.getLsbD 32 then 1 else 0 : BitVec F.K) <<< (F.K - 1) +
        ((s.request.b.setWidth 32).setWidth F.K) <<< F.M + s.request.a.setWidth F.K).setWidth 256) 0 0) ∧
  (∀ s : State,
    Answers (Row.pack .f80) s
      (((((if s.request.b.getLsbD 32 then 1 else 0 : BitVec 16) <<< 15 + (s.request.b.setWidth 32).setWidth 16) ++
        s.request.a.setWidth 64 : BitVec 80)).setWidth 256) 0 0)

/-- R149: packing the three fields of a pattern gives the pattern; the fields of a packed triple in range are the triple. -/
def Obligations.PackRoundTrip : Prop :=
  (∀ (F : Fmt) (s : State), ∃ r1 r2 r3 : Wide,
    Answers (Row.xsign F) s r1 0 0 ∧ Answers (Row.xexp F) s r2 0 0 ∧ Answers (Row.xsig F) s r3 0 0 ∧
    ∀ c : Pat, Answers (Row.pack F) (s.withOperands r3 (r1 <<< 32 ||| r2) c) ((s.request.a.setWidth F.K).setWidth 256) 0 0) ∧
  (∀ (F : Fmt) (s : State) (sgn : Bool) (e m : ℕ) (b : Wide) (c : Pat), e < 2 ^ F.EW → m < 2 ^ F.M →
    ∃ p : Wide,
      Answers (Row.pack F) (s.withOperands (BitVec.ofNat 256 m) (BitVec.ofNat 256 (sgn.toNat * 2 ^ 32 + e)) c) p 0 0 ∧
      Answers (Row.xsign F) (s.withOperands p b c) (if sgn then 1 else 0) 0 0 ∧
      Answers (Row.xexp F) (s.withOperands p b c) (BitVec.ofNat 256 e) 0 0 ∧
      Answers (Row.xsig F) (s.withOperands p b c) (BitVec.ofNat 256 m) 0 0)

/-- R152: `Squash` replaces a subnormal operand (an F80 pseudo-denormal included) by the zero of its sign, with `INPUT_DENORMAL`, when `CTL.FIZ = 1`, and
leaves every other operand alone, with no flag. Seen at `FCMP` against zero, where a subnormal operand so compares equal. -/
def Obligations.Squash : Prop :=
  (∀ (F : Fmt) (ctl : Word) (a : Pat),
    let flushed : Prop := ctl.getLsbD 5 = true ∧ expf F a = 0 ∧ sigf F a ≠ 0
    (flushed → squash ctl F a = zero F (sign F a) ∧ squashFlag ctl F a = Flag.inputDenormal ∧
      sign F (squash ctl F a) = sign F a ∧ expf F (squash ctl F a) = 0 ∧ sigf F (squash ctl F a) = 0) ∧
    (¬flushed → squash ctl F a = a ∧ squashFlag ctl F a = 0)) ∧
  (∀ (F : Fmt) (q : Bool) (s : State), expf F (patA F s) = 0 → sigf F (patA F s) ≠ 0 → s.request.b = 0 →
    (s.ctl.getLsbD 5 = true → Answers (Row.fcmp F q) s 1 0 Flag.inputDenormal) ∧
    (s.ctl.getLsbD 5 = false → Answers (Row.fcmp F q) s (if sign F (patA F s) then 0 else 2) 0 0))

/-! ## The rounding engine (spec/42_round_pack.md) -/

/-- R179: for a well-formed engine input that neither overflows nor is flushed, `RPACK` gives the number behind the input, rounded in the mode
to a whole number of units, the unit being that of the final exponent at the precision in force; `INEXACT` exactly when that changed the
number; never `OVERFLOW`. An F80 result is canonical (R181). `t` is the real number that `zSig` is the jam of. -/
def Obligations.RoundsCorrectly : Prop :=
  ∀ (F : Fmt) (s : State) (mode : RMode) (t : ℝ),
    let Ge := discarded s.ctl F
    let zSig : ℕ := (s.request.a.setWidth F.W).toNat
    let zExp : ℤ := (s.request.b.setWidth 32).toInt
    let sgn : Bool := s.request.b.getLsbD 32
    let v : ℝ := t * 2 ^ (zExp + 1 - F.bias - F.N)
    let u : ℝ := 2 ^ (max zExp 0 + 1 - F.bias - F.N + Ge)
    LegalFor F s.ctl → modeOf (s.ctl.toNat % 8) = some mode → 0 ≤ t → IsJam t zSig →
    zSig < 2 ^ (F.N + 1) → (2 ^ F.N ≤ zSig ∨ zExp ≤ 0) →
    (zExp < (F.emaxf : ℤ) - 2 ∨ (zExp = (F.emaxf : ℤ) - 2 ∧ zSig + roundInc mode sgn Ge < 2 ^ (F.N + 1))) →
    (0 ≤ zExp ∨ s.ctl.getLsbD 4 = false) →
    ∃ (p : Pat) (q : ℕ) (m : Flags), Answers (Row.rpack F) s (outPat F p) 0 m ∧ p.toNat < 2 ^ F.K ∧
      sign F p = sgn ∧ isFinite F p = true ∧ (|valQ F p| : ℝ) = q * u ∧ RoundsTo mode sgn (v / u) q ∧
      (m.getLsbD 4 = true ↔ (|valQ F p| : ℝ) ≠ v) ∧ m.getLsbD 2 = false ∧
      (F = .f80 → (2 ^ 63 ≤ sigf F p ↔ 1 ≤ expf F p))

/-- R175: overflow sets both flags in every mode and gives infinity where the mode's increment moves away from zero, the largest finite value
of the precision in force elsewhere. Where nothing is added, the largest exponent does not overflow by carry: the input is truncated to a finite
result with `INEXACT` alone. -/
def Obligations.EngineOverflow : Prop :=
  ∀ (F : Fmt) (s : State) (mode : RMode),
    let Ge := discarded s.ctl F
    let zSig : ℕ := (s.request.a.setWidth F.W).toNat
    let zExp : ℤ := (s.request.b.setWidth 32).toInt
    let sgn : Bool := s.request.b.getLsbD 32
    let toInf : Bool := mode == .ne || mode == .na || (mode == .tp && !sgn) || (mode == .tn && sgn)
    let largest : Pat :=
      if F = .f80 then pack F sgn 0x7FFE ([0xFFFFFFFFFFFFFFFF, 0xFFFFFFFFFFFFF800, 0xFFFFFF0000000000].getD (s.ctl.toNat / 64 % 4) 0)
      else maxFinite F sgn
    LegalFor F s.ctl → modeOf (s.ctl.toNat % 8) = some mode →
    ((F.emaxf : ℤ) - 2 < zExp ∨ (zExp = (F.emaxf : ℤ) - 2 ∧ 2 ^ (F.N + 1) ≤ zSig + roundInc mode sgn Ge) →
      Answers (Row.rpack F) s (outPat F (if toInf then inf F sgn else largest)) 0 (Flag.overflow ||| Flag.inexact)) ∧
    (toInf = false → roundInc mode sgn Ge = 0) ∧
    (toInf = false → zExp = (F.emaxf : ℤ) - 2 → 2 ^ F.N ≤ zSig → zSig < 2 ^ (F.N + 1) →
      ∃ p : Pat, Answers (Row.rpack F) s (outPat F p) 0 (if zSig % 2 ^ Ge = 0 then 0 else Flag.inexact) ∧
        isFinite F p = true ∧ sign F p = sgn ∧ |valQ F p| ≤ |valQ F largest|)

/-- R176: below the smallest normal exponent, the result is flushed (`CTL.FTZ = 1`, `OUTPUT_DENORMAL` alone), or the significand is jammed right by the
deficit and rounded at exponent 0; `INEXACT` when bits are lost, and with it `UNDERFLOW` exactly when the input is tiny by `CTL.TIN`. -/
def Obligations.SubnormalRange : Prop :=
  ∀ (F : Fmt) (s : State) (mode : RMode),
    let Ge := discarded s.ctl F
    let zSig : ℕ := (s.request.a.setWidth F.W).toNat
    let zExp : ℤ := (s.request.b.setWidth 32).toInt
    let sgn : Bool := s.request.b.getLsbD 32
    let deficit : ℕ := (-zExp).toNat
    let tiny : Prop := s.ctl.getLsbD 3 = false ∨ zExp < -1 ∨ zSig + roundInc mode sgn Ge < 2 ^ (F.N + 1)
    let p : Pat := finish F sgn 0 (roundSig mode sgn Ge (shrjam zSig deficit)) Ge
    LegalFor F s.ctl → modeOf (s.ctl.toNat % 8) = some mode → zExp < 0 →
    (s.ctl.getLsbD 4 = true → Answers (Row.rpack F) s (outPat F (zero F sgn)) 0 Flag.outputDenormal) ∧
    (s.ctl.getLsbD 4 = false → zSig % 2 ^ (deficit + Ge) = 0 → Answers (Row.rpack F) s (outPat F p) 0 0) ∧
    (s.ctl.getLsbD 4 = false → zSig % 2 ^ (deficit + Ge) ≠ 0 → tiny →
      Answers (Row.rpack F) s (outPat F p) 0 (Flag.underflow ||| Flag.inexact)) ∧
    (s.ctl.getLsbD 4 = false → zSig % 2 ^ (deficit + Ge) ≠ 0 → ¬tiny → Answers (Row.rpack F) s (outPat F p) 0 Flag.inexact)

/-- R25, R29, R171 step S0: the engine's operations fault exactly when they consult a reserved code, exact inputs and zero significands included. That
`NRPACK.F80` of a zero significand faults with `CTL.RP = 3` is the model's reading of R183 (log entry 18). -/
def Obligations.EngineFaults : Prop :=
  (∀ (F : Fmt) (s : State),
    (¬LegalFor F s.ctl → Violates (Row.rpack F) s ∧ Violates (Row.nrpack F) s) ∧
    (LegalFor F s.ctl → (∃ r m, Answers (Row.rpack F) s r 0 m) ∧ ∃ r m, Answers (Row.nrpack F) s r 0 m)) ∧
  (∀ (T : IntTy) (s : State),
    (¬LegalMode s.ctl → Violates (Row.rpacki T) s) ∧ (LegalMode s.ctl → ∃ r m, Answers (Row.rpacki T) s r 0 m))

/-- R183: `NRPACK` is `RPACK` of the input shifted left until its leading bit is at bit `N`, the exponent lowered by the shift; a zero
significand is a zero of the sign with no flag; an input with the headroom bit set is not shifted; the checks of S0 come first. That they are all of S0's
checks, so that `NRPACK.F80` of a zero significand with `CTL.RP = 3` is a contract violation, is the model's reading of R183 (log entry 18). -/
def Obligations.NormaliseRoundPack : Prop :=
  ∀ (F : Fmt) (s : State),
    let zSig : ℕ := (s.request.a.setWidth F.W).toNat
    let zExp : ℤ := (s.request.b.setWidth 32).toInt
    let sgn : Bool := s.request.b.getLsbD 32
    (¬LegalFor F s.ctl → Violates (Row.nrpack F) s) ∧
    (LegalFor F s.ctl → zSig = 0 → Answers (Row.nrpack F) s (outPat F (zero F sgn)) 0 0) ∧
    (zSig ≠ 0 → zSig < 2 ^ (F.N + 1) → ∃ k : ℕ, 2 ^ F.N ≤ zSig * 2 ^ k ∧ zSig * 2 ^ k < 2 ^ (F.N + 1) ∧
      Delivers (Row.nrpack F) s F 0 (rpack s.ctl F sgn (zExp - k) (zSig * 2 ^ k))) ∧
    (2 ^ (F.N + 1) ≤ zSig → Delivers (Row.nrpack F) s F 0 (rpack s.ctl F sgn zExp zSig))

/-- R185: `RPACKI` rounds the 64.64 fixed-point magnitude to an integer in the mode, and saturates: `INVALID` alone and the bound when the signed
result is out of the type's range, else the result, with `INEXACT` exactly when it differs from the magnitude. -/
def Obligations.RoundPackInteger : Prop :=
  ∀ (T : IntTy) (s : State),
    let x : ℝ := ((s.request.a.setWidth 128).toNat : ℝ) / 2 ^ 64
    let sgn : Bool := s.request.b.getLsbD 32
    (¬LegalMode s.ctl → Violates (Row.rpacki T) s) ∧
    (∀ mode, modeOf (s.ctl.toNat % 8) = some mode → ∃ q : ℕ, RoundsTo mode sgn x q ∧
      let v : ℤ := if sgn then -(q : ℤ) else q
      (v < imin T → Answers (Row.rpacki T) s (intBits T (imin T)) 0 Flag.invalid) ∧
      (imax T < v → Answers (Row.rpacki T) s (intBits T (imax T)) 0 Flag.invalid) ∧
      (imin T ≤ v → v ≤ imax T → x = q → Answers (Row.rpacki T) s (intBits T v) 0 0) ∧
      (imin T ≤ v → v ≤ imax T → x ≠ q → Answers (Row.rpacki T) s (intBits T v) 0 Flag.inexact))

/-! ## NaNs (spec/43_nan_policy.md), with the default policy -/

/-- R204, R205: a NaN is signaling or quiet by its most significant fraction bit; F80's integer bit does not count; no flag. -/
def Obligations.NanDetection : Prop :=
  ∀ (F : Fmt) (s : State),
    let a : Wide := s.request.a
    let nan : Prop := a.extractLsb' F.M F.EW = BitVec.allOnes F.EW ∧ a.extractLsb' 0 F.FB ≠ 0
    (nan → a.getLsbD (F.FB - 1) = false → Answers (Row.issnan F) s 1 0 0 ∧ Answers (Row.isqnan F) s 0 0 0) ∧
    (nan → a.getLsbD (F.FB - 1) = true → Answers (Row.issnan F) s 0 0 0 ∧ Answers (Row.isqnan F) s 1 0 0) ∧
    (¬nan → Answers (Row.issnan F) s 0 0 0 ∧ Answers (Row.isqnan F) s 0 0 0)

/-- R206, R207, R208: the first NaN operand, made quiet, `INVALID` if any operand is signaling; without a NaN operand the default NaN, no flag;
`INFZERO` changes nothing; the default NaN's pattern. -/
def Obligations.NanPropagation : Prop :=
  ∀ (F : Fmt) (infzero : Bool) (s : State),
    let a := patA F s
    let b := patB F s
    let c := patC F s
    let quiet : Pat → Pat := fun x => x ||| BitVec.ofNat 128 (2 ^ (F.FB - 1))
    let snan : Pat → Bool := fun x => isNaN F x && !x.getLsbD (F.FB - 1)
    let dflt : Pat := match F with
      | .f16 => 0x7E00
      | .f32 => 0x7FC00000
      | .f64 => 0x7FF8000000000000
      | .f80 => 0x7FFFC000000000000000
      | .f128 => 0x7FFF8000000000000000000000000000
    Answers (Row.propnan F) s (outPat F (if isNaN F a then quiet a else if isNaN F b then quiet b else dflt)) 0
      (if snan a || snan b then Flag.invalid else 0) ∧
    Answers (Row.propnan3 F infzero) s
      (outPat F (if isNaN F a then quiet a else if isNaN F b then quiet b else if isNaN F c then quiet c else dflt)) 0
      (if snan a || snan b || snan c then Flag.invalid else 0) ∧
    Answers (Row.defnan F) s (outPat F dflt) 0 0

/-- R209: at every `CTL`, a NaN operand ends an arithmetic operation in a quiet NaN, with `INVALID` exactly when an operand is signaling and
none of the rounding flags; `F2F` the same; the quiet comparisons set `INVALID` exactly for a signaling operand. -/
def Obligations.NanAbsorption : Prop :=
  ∀ (F : Fmt) (s : State),
    let snan : Pat → Bool := fun x => isNaN F x && !x.getLsbD (F.FB - 1)
    let absorbs : Instr → Fmt → Bool → Prop := fun i F' signaling => ∃ (p : Pat) (m : Flags), Answers i s (outPat F' p) 0 m ∧
      isNaN F' p = true ∧ p.getLsbD (F'.FB - 1) = true ∧ (m.getLsbD 0 = signaling) ∧ m &&& 0x5E = 0
    (isNaN F (patA F s) = true → ∀ i ∈ [Row.fsqrt F, Row.frint F, Row.fscalbn F], absorbs i F (snan (patA F s))) ∧
    (isNaN F (patA F s) = true → ∀ F' i, Row.f2f F F' = some i → absorbs i F' (snan (patA F s))) ∧
    (isNaN F (patA F s) = true ∨ isNaN F (patB F s) = true →
      ∀ i ∈ [Row.fadd F, Row.fsub F, Row.fmul F, Row.fdiv F, Row.frem F], absorbs i F (snan (patA F s) || snan (patB F s))) ∧
    (isNaN F (patA F s) = true ∨ isNaN F (patB F s) = true ∨ isNaN F (patC F s) = true →
      ∀ negC negP negR halve, absorbs (Row.fma F negC negP negR halve) F (snan (patA F s) || snan (patB F s) || snan (patC F s))) ∧
    (∀ i ∈ [Row.feq F true, Row.fle F true, Row.flt F true], ∃ (r : Wide) (m : Flags), Answers i s r 0 m ∧
      m.getLsbD 0 = (snan (patA F s) || snan (patB F s)))

/-! ## Conversions (spec/44_convert.md) -/

/-- R231: zero gives +0 without reading `CTL`; any other integer is rounded at the format's full precision. -/
def Obligations.IntToFloat : Prop :=
  ∀ (F : Fmt) (T : IntTy) (s : State),
    let x : BitVec T.width := s.request.a.setWidth T.width
    let v : ℤ := if T.signed then x.toInt else x.toNat
    (v = 0 → Answers (Row.i2f F T) s 0 0 0) ∧
    (v ≠ 0 → RoundPacksFull (Row.i2f F T) s F 0 (decide (v < 0)) |(v : ℝ)|)

/-- R235, R236: the operand is rounded to an integer in the mode (`TZ` with `.RZ`, which does not read `CTL.RM`) and saturates; NaN and infinity give
the bounds. -/
def Obligations.FloatToInt : Prop :=
  ∀ (F : Fmt) (T : IntTy) (rz : Bool) (s : State),
    let i := Row.f2i F T rz
    let a := squash s.ctl F (patA F s)
    let m := squashFlag s.ctl F (patA F s)
    (isNaN F a = true → Answers i s (intBits T (imax T)) 0 (m ||| Flag.invalid)) ∧
    (isNaN F a = false → rz = false → ¬LegalMode s.ctl → Violates i s) ∧
    (isNaN F a = false → ∀ mode, (if rz then some .tz else modeOf (s.ctl.toNat % 8)) = some mode →
      (isInf F a = true → Answers i s (intBits T (if sign F a then imin T else imax T)) 0 (m ||| Flag.invalid)) ∧
      (isInf F a = false → ∃ q : ℕ, RoundsTo mode (sign F a) |(valQ F a : ℝ)| q ∧
        let v : ℤ := if sign F a then -(q : ℤ) else q
        (v < imin T → Answers i s (intBits T (imin T)) 0 (m ||| Flag.invalid)) ∧
        (imax T < v → Answers i s (intBits T (imax T)) 0 (m ||| Flag.invalid)) ∧
        (imin T ≤ v → v ≤ imax T → |(valQ F a : ℝ)| = q → Answers i s (intBits T v) 0 m) ∧
        (imin T ≤ v → v ≤ imax T → |(valQ F a : ℝ)| ≠ q → Answers i s (intBits T v) 0 (m ||| Flag.inexact))))

/-- R240, R241: a NaN keeps its sign and its fraction's most significant bits and comes out quiet; infinities and zeros keep their sign; a finite
value is rounded to the destination at its full precision. R230: rounding at full precision is `RPACK` with `CTL.RP = 0`. For a subnormal number from
F80 to F128 with `CTL.FTZ = 1` the last clause is a flush: the model follows R240's listing there, against R240's sentence that this conversion is
exact (log entry 22). -/
def Obligations.FloatToFloat : Prop :=
  (∀ (F F' : Fmt) (i : Instr) (s : State), Row.f2f F F' = some i →
    let a := squash s.ctl F (patA F s)
    let m := squashFlag s.ctl F (patA F s)
    (isNaN F a = true → ∃ p : Pat, p.toNat < 2 ^ F'.K ∧
      Answers i s (outPat F' p) 0 (m ||| (if a.getLsbD (F.FB - 1) then 0 else Flag.invalid)) ∧
      sign F' p = sign F a ∧ expf F' p = F'.emaxf ∧ (F' = .f80 → p.getLsbD 63 = true) ∧
      frac F' p = (if F.FB ≤ F'.FB then frac F a * 2 ^ (F'.FB - F.FB) else frac F a / 2 ^ (F.FB - F'.FB)) ||| 2 ^ (F'.FB - 1)) ∧
    (isInf F a = true → Answers i s (outPat F' (inf F' (sign F a))) 0 m) ∧
    (isFinite F a = true → valQ F a = 0 → Answers i s (outPat F' (zero F' (sign F a))) 0 m) ∧
    (isFinite F a = true → valQ F a ≠ 0 → RoundPacksFull i s F' m (sign F a) |(valQ F a : ℝ)|)) ∧
  (∀ (F : Fmt) (ctl : Word) (sgn : Bool) (zExp : ℤ) (zSig : ℕ), rpackFull ctl F sgn zExp zSig = rpack (ctl &&& 0xFFFFFF3F) F sgn zExp zSig)

/-- R240: a widening conversion of a finite number is exact in every mode and sets none of the engine's flags: sign and value are kept. From
F80 to F128 the smallest numbers are in the subnormal range of both, so that one holds with `CTL.FTZ = 0`. -/
def Obligations.WideningExact : Prop :=
  ∀ (F F' : Fmt) (i : Instr) (s : State), Row.f2f F F' = some i →
    (F = .f16 ∨ (F = .f32 ∧ F' ≠ .f16) ∨ (F = .f64 ∧ (F' = .f80 ∨ F' = .f128)) ∨ (F = .f80 ∧ F' = .f128 ∧ s.ctl.getLsbD 4 = false)) →
    LegalMode s.ctl → isFinite F (patA F s) = true →
    let a := squash s.ctl F (patA F s)
    ∃ p : Pat, Answers i s (outPat F' p) 0 (squashFlag s.ctl F (patA F s)) ∧ p.toNat < 2 ^ F'.K ∧ isFinite F' p = true ∧
      sign F' p = sign F a ∧ valQ F' p = valQ F a

/-- Spec/95_test_vectors.md 1.2, R231, R235: an integer type no wider than the format's precision goes to the format and back unchanged, without a
flag, in every mode. -/
def Obligations.IntegerRoundTrip : Prop :=
  ∀ (F : Fmt) (T : IntTy) (rz : Bool) (s : State), T.width ≤ F.P → LegalMode s.ctl →
    ∃ r : Wide, Answers (Row.i2f F T) s r 0 0 ∧
      ∀ (b : Wide) (c : Pat), Answers (Row.f2i F T rz) (s.withOperands r b c) ((s.request.a.setWidth T.width).setWidth 256) 0 0

/-! ## Arithmetic (spec/45_arith.md) -/

/-- R255, R256, R252: add and subtract. -/
def Obligations.FloatAddSub : Prop :=
  ∀ (F : Fmt) (sub : Bool) (s : State),
    let i := if sub then Row.fsub F else Row.fadd F
    let a := squash s.ctl F (patA F s)
    let b := squash s.ctl F (patB F s)
    let m := squashFlag s.ctl F (patA F s) ||| squashFlag s.ctl F (patB F s)
    let sb := sign F b ^^ sub
    let r : ℝ := (valQ F a : ℝ) + (if sub then -(valQ F b : ℝ) else valQ F b)
    let zeroSign : Bool := if sign F a = sb then sb else s.ctl.toNat % 8 == 4
    (isNaN F a = true ∨ isNaN F b = true → Delivers i s F m (.ok (propNaN2 nanPolicy F a b))) ∧
    (isInf F a = true → isInf F b = true → sign F a ≠ sb → Answers i s (outPat F (nanPolicy.defaultNan F)) 0 (m ||| Flag.invalid)) ∧
    (isInf F a = true → isInf F b = true → sign F a = sb → Answers i s (outPat F (inf F sb)) 0 m) ∧
    (isInf F a = true → isFinite F b = true → Answers i s (outPat F (inf F (sign F a))) 0 m) ∧
    (isFinite F a = true → isInf F b = true → Answers i s (outPat F (inf F sb)) 0 m) ∧
    (isFinite F a = true → isFinite F b = true → r = 0 → Answers i s (outPat F (zero F zeroSign)) 0 m) ∧
    (isFinite F a = true → isFinite F b = true → r < 0 → RoundPacks i s F m true (-r)) ∧
    (isFinite F a = true → isFinite F b = true → 0 < r → RoundPacks i s F m false r)

/-- R257: multiply. -/
def Obligations.FloatMultiply : Prop :=
  ∀ (F : Fmt) (s : State),
    let i := Row.fmul F
    let a := squash s.ctl F (patA F s)
    let b := squash s.ctl F (patB F s)
    let m := squashFlag s.ctl F (patA F s) ||| squashFlag s.ctl F (patB F s)
    let sgn := sign F a ^^ sign F b
    let r : ℝ := |(valQ F a : ℝ)| * |(valQ F b : ℝ)|
    (isNaN F a = true ∨ isNaN F b = true → Delivers i s F m (.ok (propNaN2 nanPolicy F a b))) ∧
    ((isInf F a = true ∧ isFinite F b = true ∧ valQ F b = 0) ∨ (isInf F b = true ∧ isFinite F a = true ∧ valQ F a = 0) →
      Answers i s (outPat F (nanPolicy.defaultNan F)) 0 (m ||| Flag.invalid)) ∧
    ((isInf F a = true ∧ isInf F b = true) ∨ (isInf F a = true ∧ isFinite F b = true ∧ valQ F b ≠ 0) ∨
      (isInf F b = true ∧ isFinite F a = true ∧ valQ F a ≠ 0) → Answers i s (outPat F (inf F sgn)) 0 m) ∧
    (isFinite F a = true → isFinite F b = true → r = 0 → Answers i s (outPat F (zero F sgn)) 0 m) ∧
    (isFinite F a = true → isFinite F b = true → r ≠ 0 → RoundPacks i s F m sgn r)

/-- R258: divide. -/
def Obligations.FloatDivide : Prop :=
  ∀ (F : Fmt) (s : State),
    let i := Row.fdiv F
    let a := squash s.ctl F (patA F s)
    let b := squash s.ctl F (patB F s)
    let m := squashFlag s.ctl F (patA F s) ||| squashFlag s.ctl F (patB F s)
    let sgn := sign F a ^^ sign F b
    (isNaN F a = true ∨ isNaN F b = true → Delivers i s F m (.ok (propNaN2 nanPolicy F a b))) ∧
    ((isInf F a = true ∧ isInf F b = true) ∨ (isFinite F a = true ∧ isFinite F b = true ∧ valQ F a = 0 ∧ valQ F b = 0) →
      Answers i s (outPat F (nanPolicy.defaultNan F)) 0 (m ||| Flag.invalid)) ∧
    (isInf F a = true → isFinite F b = true → Answers i s (outPat F (inf F sgn)) 0 m) ∧
    (isFinite F a = true → isInf F b = true → Answers i s (outPat F (zero F sgn)) 0 m) ∧
    (isFinite F a = true → isFinite F b = true → valQ F a ≠ 0 → valQ F b = 0 →
      Answers i s (outPat F (inf F sgn)) 0 (m ||| Flag.divByZero)) ∧
    (isFinite F a = true → isFinite F b = true → valQ F a = 0 → valQ F b ≠ 0 → Answers i s (outPat F (zero F sgn)) 0 m) ∧
    (isFinite F a = true → isFinite F b = true → valQ F a ≠ 0 → valQ F b ≠ 0 →
      RoundPacks i s F m sgn (|(valQ F a : ℝ)| / |(valQ F b : ℝ)|))

/-- R259: the IEEE remainder `x - n * y`, `n` the integer nearest to `x / y`, ties to even. -/
def Obligations.FloatRemainder : Prop :=
  ∀ (F : Fmt) (s : State),
    let i := Row.frem F
    let a := squash s.ctl F (patA F s)
    let b := squash s.ctl F (patB F s)
    let m := squashFlag s.ctl F (patA F s) ||| squashFlag s.ctl F (patB F s)
    let x : ℚ := valQ F a
    let y : ℚ := valQ F b
    (isNaN F a = true ∨ isNaN F b = true → Delivers i s F m (.ok (propNaN2 nanPolicy F a b))) ∧
    ((isInf F a = true ∧ isNaN F b = false) ∨ (isFinite F a = true ∧ isFinite F b = true ∧ y = 0) →
      Answers i s (outPat F (nanPolicy.defaultNan F)) 0 (m ||| Flag.invalid)) ∧
    (isFinite F a = true → isInf F b = true → Answers i s (outPat F a) 0 m) ∧
    (isFinite F a = true → isFinite F b = true → y ≠ 0 →
      ∃ n : ℤ, |x / y - n| ≤ 1 / 2 ∧ (|x / y - n| = 1 / 2 → n % 2 = 0) ∧ |x - n * y| ≤ |y| / 2 ∧
        (x - n * y = 0 → Answers i s (outPat F (zero F (sign F a))) 0 m) ∧
        (x - n * y ≠ 0 → RoundPacksFull i s F m (decide (x - n * y < 0)) |((x - n * y : ℚ) : ℝ)|))

/-- R260: fused multiply-add with its four modifiers, one rounding. -/
def Obligations.FusedMultiplyAdd : Prop :=
  ∀ (F : Fmt) (negC negP negR halve : Bool) (s : State),
    let i := Row.fma F negC negP negR halve
    let a := squash s.ctl F (patA F s)
    let b := squash s.ctl F (patB F s)
    let c := squash s.ctl F (patC F s)
    let m := squashFlag s.ctl F (patA F s) ||| squashFlag s.ctl F (patB F s) ||| squashFlag s.ctl F (patC F s)
    let infzero : Prop := (isInf F a = true ∧ isFinite F b = true ∧ valQ F b = 0) ∨ (isInf F b = true ∧ isFinite F a = true ∧ valQ F a = 0)
    let ps := sign F a ^^ sign F b ^^ negP
    let cs := sign F c ^^ negC
    let sum : ℝ := (if negP then -1 else 1) * ((valQ F a : ℝ) * valQ F b) + (if negC then -1 else 1) * (valQ F c : ℝ)
    let r : ℝ := if halve then sum / 2 else sum
    let zeroSign : Bool := if ps = cs then ps else s.ctl.toNat % 8 == 4
    let anyNaN : Bool := isNaN F a || isNaN F b || isNaN F c
    (anyNaN = true → Delivers i s F m (.ok (propNaN3 nanPolicy F a b c false))) ∧
    (anyNaN = false → infzero → Answers i s (outPat F (nanPolicy.defaultNan F)) 0 (m ||| Flag.invalid)) ∧
    (anyNaN = false → ¬infzero → isInf F a = true ∨ isInf F b = true → isInf F c = true → cs ≠ ps →
      Answers i s (outPat F (nanPolicy.defaultNan F)) 0 (m ||| Flag.invalid)) ∧
    (anyNaN = false → ¬infzero → isInf F a = true ∨ isInf F b = true → (isInf F c = false ∨ cs = ps) →
      Answers i s (outPat F (inf F (ps ^^ negR))) 0 m) ∧
    (isFinite F a = true → isFinite F b = true → isInf F c = true → Answers i s (outPat F (inf F (cs ^^ negR))) 0 m) ∧
    (isFinite F a = true → isFinite F b = true → isFinite F c = true → sum = 0 →
      Answers i s (outPat F (zero F (zeroSign ^^ negR))) 0 m) ∧
    (∀ neg : Bool, isFinite F a = true → isFinite F b = true → isFinite F c = true → (if neg then r < 0 else 0 < r) →
      ∃ zExp zSig, EngineInput F |r| zExp zSig ∧
        Delivers i s F m ((rpack s.ctl F neg zExp zSig).map
          (Flagged.map fun p => if negR then p ^^^ BitVec.ofNat 128 (2 ^ (F.K - 1)) else p)))

/-- R261: the real square root, rounded once; `-0` stays, other negative numbers are invalid. -/
def Obligations.SquareRoot : Prop :=
  ∀ (F : Fmt) (s : State),
    let i := Row.fsqrt F
    let a := squash s.ctl F (patA F s)
    let m := squashFlag s.ctl F (patA F s)
    (isNaN F a = true → Delivers i s F m (.ok (propNaN2 nanPolicy F a a))) ∧
    (isFinite F a = true → valQ F a = 0 → Answers i s (outPat F (zero F (sign F a))) 0 m) ∧
    ((isInf F a = true ∧ sign F a = true) ∨ (isFinite F a = true ∧ valQ F a < 0) →
      Answers i s (outPat F (nanPolicy.defaultNan F)) 0 (m ||| Flag.invalid)) ∧
    (isInf F a = true → sign F a = false → Answers i s (outPat F a) 0 m) ∧
    (isFinite F a = true → 0 < valQ F a → RoundPacks i s F m false (Real.sqrt (valQ F a)))

/-- R262: an integer, a zero or an infinity comes back unchanged without a flag at every `CTL`; any other finite value is rounded to an integer in
the mode, its sign kept, with `INEXACT`. -/
def Obligations.RoundToIntegral : Prop :=
  ∀ (F : Fmt) (s : State),
    let i := Row.frint F
    let a := squash s.ctl F (patA F s)
    let m := squashFlag s.ctl F (patA F s)
    let integral : Prop := ∃ n : ℤ, valQ F a = n
    (isNaN F a = true → Delivers i s F m (.ok (propNaN2 nanPolicy F a a))) ∧
    (isInf F a = true ∨ (isFinite F a = true ∧ integral) → Answers i s (outPat F a) 0 m) ∧
    (isFinite F a = true → ¬integral → ¬LegalMode s.ctl → Violates i s) ∧
    (isFinite F a = true → ¬integral → ∀ mode, modeOf (s.ctl.toNat % 8) = some mode →
      ∃ (p : Pat) (q : ℕ), Answers i s (outPat F p) 0 (m ||| Flag.inexact) ∧ p.toNat < 2 ^ F.K ∧ isFinite F p = true ∧
        sign F p = sign F a ∧ RoundsTo mode (sign F a) |(valQ F a : ℝ)| q ∧ |valQ F p| = q ∧
        (F = .f80 → (2 ^ 63 ≤ sigf F p ↔ 1 ≤ expf F p)))

/-- R263: the operand times a power of two, the power clamped to 65536 either way, rounded once. -/
def Obligations.ScaleByPowerOfTwo : Prop :=
  ∀ (F : Fmt) (s : State),
    let i := Row.fscalbn F
    let a := squash s.ctl F (patA F s)
    let m := squashFlag s.ctl F (patA F s)
    let n : ℤ := max (-65536) (min 65536 (s.request.b.setWidth 32).toInt)
    (isNaN F a = true → Delivers i s F m (.ok (propNaN2 nanPolicy F a a))) ∧
    (isInf F a = true → Answers i s (outPat F a) 0 m) ∧
    (isFinite F a = true → valQ F a = 0 → Answers i s (outPat F (zero F (sign F a))) 0 m) ∧
    (isFinite F a = true → valQ F a ≠ 0 → RoundPacks i s F m (sign F a) (|(valQ F a : ℝ)| * 2 ^ n))

/-! ## Comparisons and min/max (spec/46_compare_minmax.md) -/

/-- R290 to R296: the five comparisons answer by the order of the extended reals; `INVALID` for any NaN without `.Q`, for a signaling NaN with it. -/
def Obligations.Comparisons : Prop :=
  ∀ (F : Fmt) (q : Bool) (s : State),
    let a := squash s.ctl F (patA F s)
    let b := squash s.ctl F (patB F s)
    let m := squashFlag s.ctl F (patA F s) ||| squashFlag s.ctl F (patB F s)
    let snan : Pat → Bool := fun x => isNaN F x && !x.getLsbD (F.FB - 1)
    let all : Wide → Wide → Wide → Wide → Wide → Flags → Prop := fun eq le lt un code f =>
      Answers (Row.feq F q) s eq 0 (m ||| f) ∧ Answers (Row.fle F q) s le 0 (m ||| f) ∧ Answers (Row.flt F q) s lt 0 (m ||| f) ∧
      Answers (Row.funord F q) s un 0 (m ||| f) ∧ Answers (Row.fcmp F q) s code 0 (m ||| f)
    ((isNaN F a = true ∨ isNaN F b = true) → all 0 0 0 1 3 (if q && !snan a && !snan b then 0 else Flag.invalid)) ∧
    (isNaN F a = false → isNaN F b = false →
      (ExtLt F a b → all 0 1 1 0 0 0) ∧ (ExtLt F b a → all 0 0 0 0 2 0) ∧ (¬ExtLt F a b → ¬ExtLt F b a → all 1 1 0 0 1 0))

/-- R297 to R301: min and max. A number wins over one quiet NaN; otherwise NaNs propagate; the magnitude variants compare magnitudes first; then the
sign decides, zeros included; then the value. Two operands of the same sign and magnitude, which are two encodings of one F80 value or equal patterns, give the
second: R297's prose and decision D44; the listing's last line says otherwise of the maximum (log entry 21). -/
def Obligations.MinMax : Prop :=
  ∀ (F : Fmt) (isMin isMag : Bool) (s : State),
    let i := if isMag then (if isMin then Row.fminnummag F else Row.fmaxnummag F) else (if isMin then Row.fminnum F else Row.fmaxnum F)
    let a := squash s.ctl F (patA F s)
    let b := squash s.ctl F (patB F s)
    let m := squashFlag s.ctl F (patA F s) ||| squashFlag s.ctl F (patB F s)
    let qnan : Pat → Bool := fun x => isNaN F x && x.getLsbD (F.FB - 1)
    let gives : Pat → Prop := fun p => Answers i s (outPat F p) 0 m
    let magDiffers : Prop := ExtMagLt F a b ∨ ExtMagLt F b a
    (qnan a = true → isNaN F b = false → gives b) ∧ (qnan b = true → isNaN F a = false → gives a) ∧
    ((isNaN F a = true ∧ isNaN F b = true) ∨ (isNaN F a = true ∧ qnan a = false) ∨ (isNaN F b = true ∧ qnan b = false) →
      Delivers i s F m (.ok (propNaN2 nanPolicy F a b))) ∧
    (isNaN F a = false → isNaN F b = false →
      (isMag = true → ExtMagLt F a b → gives (if isMin then a else b)) ∧
      (isMag = true → ExtMagLt F b a → gives (if isMin then b else a)) ∧
      ((isMag = false ∨ ¬magDiffers) → sign F a ≠ sign F b → gives (if sign F a = isMin then a else b)) ∧
      (isMag = false → sign F a = sign F b → ExtLt F a b → gives (if isMin then a else b)) ∧
      (isMag = false → sign F a = sign F b → ExtLt F b a → gives (if isMin then b else a)) ∧
      (¬magDiffers → sign F a = sign F b → gives b))

/-! ## Status access (spec/47_status_ops.md), pseudo-operations, instances -/

/-- R320 to R323: the four accesses: reserved bits read as 0 and are not written, any value of the fields can be stored, reading does not clear,
`WRFLG` is a plain write. -/
def Obligations.StatusAccess : Prop :=
  ∀ s : State,
    Answers .rdctl s ((s.ctl.setWidth 8).setWidth 256) 0 0 ∧
    Answers .rdflg s ((s.flg.setWidth 7).setWidth 256) 0 0 ∧
    exec .wrctl s = .next { s with ctl := (s.request.a.setWidth 8).setWidth 32, response := some { r := 0, x := 0, err := 0 } } ∧
    exec .wrflg s = .next { s with flg := (s.request.a.setWidth 7).setWidth 32, response := some { r := 0, x := 0, err := 0 } }

/-- R88: the requester's wrapper (read `CTL`, set `TZ`, convert, write `CTL` back) gives the `R`, the flags and the `CTL` of the one request
`F2I.RZ`. -/
def Obligations.RoundTowardZeroWrapper : Prop :=
  ∀ (F : Fmt) (T : IntTy) (a : Wide) (s s' : State) (rest : List Input),
    ReservedZero s → s.halt = false → s.inputs = (Pseudo.rzWrapper F T a s.ctl).map .request ++ rest →
    s' = { s with inputs := .request (Pseudo.ask (Row.f2i F T true) a 0) :: rest } →
    ∃ t1 t2 t3 t4 u, step s = .next t1 ∧ step t1 = .next t2 ∧ step t2 = .next t3 ∧ step t3 = .next t4 ∧ step s' = .next u ∧
      t1.response = some { r := s.ctl.setWidth 256, x := 0, err := 0 } ∧ t3.response = u.response ∧
      t4.flg = u.flg ∧ t4.ctl = s.ctl ∧ u.ctl = s.ctl ∧ t4.halt = false ∧ u.halt = false ∧ t4.inputs = rest ∧ u.inputs = rest

/-- R88: the pseudo-operations that swap operands or clear the flags do what their names say. -/
def Obligations.PseudoOperations : Prop :=
  ∀ (s : State) (rest : List Input), s.halt = false →
    (∀ (n : Words) (a b : Wide), ∃ t t' : State,
      step { s with inputs := .request (Pseudo.cmpgt n a b) :: rest } = .next t ∧
      step { s with inputs := .request (Pseudo.cmpge n a b) :: rest } = .next t' ∧
      t.response = some { r := if (b.setWidth n.bits).toNat < (a.setWidth n.bits).toNat then 1 else 0, x := 0, err := 0 } ∧
      t'.response = some { r := if (b.setWidth n.bits).toNat ≤ (a.setWidth n.bits).toNat then 1 else 0, x := 0, err := 0 }) ∧
    (∀ (F : Fmt) (q : Bool) (a b : Wide), ∃ t t' u : State,
      step { s with inputs := .request (Pseudo.fgt F q a b) :: rest } = .next t ∧
      step { s with inputs := .request (Pseudo.ask (Row.fcmp F q) a b) :: rest } = .next u ∧
      step { s with inputs := .request (Pseudo.fge F q a b) :: rest } = .next t' ∧
      (∃ code : ℕ, code < 4 ∧ u.response = some { r := BitVec.ofNat 256 code, x := 0, err := 0 } ∧
        t.response = some { r := if code = 2 then 1 else 0, x := 0, err := 0 } ∧
        t'.response = some { r := if code = 2 ∨ code = 1 then 1 else 0, x := 0, err := 0 }) ∧
      t.flg = u.flg ∧ t'.flg = u.flg) ∧
    (∃ t : State, step { s with inputs := .request Pseudo.clrflg :: rest } = .next t ∧ t.flg = 0 ∧ t.ctl = s.ctl)

/-- R57, R355: instances share nothing: a step of one is the unit's own step on its state and changes no other, and steps of two commute. `NCTX` of them
stand after reset (R23). That one instance steps at a time is the model's choice (log entry 12). -/
def Obligations.InstancesIndependent : Prop :=
  (∀ (P : Config.Params) (j k : ℕ) (us u1 u2 : List State), j ≠ k → stepInstance P j us = .next u1 → stepInstance P k us = .next u2 →
    u1.length = us.length ∧ (∀ l, l ≠ j → u1[l]? = us[l]?) ∧
    (∀ s, us[j]? = some s → ∃ t, stepWith P s = .next t ∧ u1[j]? = some t ∧ (P = defaultParams → step s = .next t)) ∧
    ∃ w, stepInstance P k u1 = .next w ∧ stepInstance P j u2 = .next w) ∧
  (∀ P : Config.Params, (instancesReset P).length = P.nctx ∧
    ∀ k, k < P.nctx → (instancesReset P)[k]? = some { State.reset with unitNo := k })
end

