-- ==== Sys2Proof/Laws/Exact.lean ====
section
/-!
SUPPORT. Laws/Exact.lean: what the exact arithmetic of Machine/Exact.lean computes, said of rational numbers: one lemma per operation.
-/

namespace Sys2Proof.Machine

/-- The rational number a fraction stands for. -/
def Frac.toRat (x : Frac) : ℚ := x.num / x.den

namespace Frac

@[simp] theorem toRat_ofInt (n : Int) : (ofInt n).toRat = n := by simp [toRat, ofInt]

theorem den_pos_scale {x : Frac} (h : 0 < x.den) (k : Int) : 0 < (x.scale k).den := by
  cases k with
  | ofNat k => exact h
  | negSucc k => exact Nat.mul_pos h (by positivity)

theorem toRat_scale (x : Frac) (k : Int) : (x.scale k).toRat = x.toRat * 2 ^ k := by
  cases k with
  | ofNat k => simp [toRat, scale]; ring
  | negSucc k =>
    simp only [toRat, scale, zpow_negSucc, Nat.cast_mul, Nat.cast_pow, Nat.cast_ofNat]
    rw [div_mul_eq_div_div, div_eq_mul_inv _ ((2 : ℚ) ^ (k + 1))]

theorem den_pos_add {x y : Frac} (hx : 0 < x.den) (hy : 0 < y.den) : 0 < (x.add y).den := Nat.mul_pos hx hy

theorem toRat_add {x y : Frac} (hx : 0 < x.den) (hy : 0 < y.den) : (x.add y).toRat = x.toRat + y.toRat := by
  have hx' : (x.den : ℚ) ≠ 0 := by positivity
  have hy' : (y.den : ℚ) ≠ 0 := by positivity
  simp only [toRat, add, Int.cast_add, Int.cast_mul, Int.cast_natCast, Nat.cast_mul]
  field_simp

@[simp] theorem toRat_neg (x : Frac) : x.neg.toRat = -x.toRat := by simp [toRat, neg, neg_div]

theorem toRat_mul (x y : Frac) : (x.mul y).toRat = x.toRat * y.toRat := by
  simp only [toRat, mul, Int.cast_mul, Nat.cast_mul]
  rw [div_mul_div_comm]

theorem den_pos_mul {x y : Frac} (hx : 0 < x.den) (hy : 0 < y.den) : 0 < (x.mul y).den := Nat.mul_pos hx hy

@[simp] theorem toRat_abs (x : Frac) : x.abs.toRat = |x.toRat| := by
  simp [toRat, abs, abs_div]

theorem toRat_div (x y : Frac) (hy : 0 < y.den) (h : y.num ≠ 0) : (x.div y).toRat = x.toRat / y.toRat := by
  have hy' : (y.den : ℚ) ≠ 0 := by positivity
  have hn : (y.num : ℚ) ≠ 0 := by exact_mod_cast h
  have hs2 : (y.num.natAbs : ℚ) = y.num.sign * y.num := by
    rcases lt_or_gt_of_ne h with h | h
    · have : (y.num.natAbs : ℤ) = -y.num := by omega
      rw [Int.sign_eq_neg_one_of_neg h, ← Int.cast_natCast, this]; simp
    · have : (y.num.natAbs : ℤ) = y.num := by omega
      rw [Int.sign_eq_one_of_pos h, ← Int.cast_natCast, this]; simp
  have hsq : (y.num.sign : ℚ) * y.num.sign = 1 := by
    rcases lt_or_gt_of_ne h with h | h
    · simp [Int.sign_eq_neg_one_of_neg h]
    · simp [Int.sign_eq_one_of_pos h]
  have hs0 : (y.num.sign : ℚ) ≠ 0 := by intro h0; rw [h0] at hsq; simp at hsq
  rcases eq_or_ne (x.den : ℚ) 0 with hx | hx
  · simp [toRat, div, hx]
  · simp only [toRat, div, Int.cast_mul, Int.cast_natCast, Nat.cast_mul, hs2]
    field_simp

theorem den_pos_div {x y : Frac} (hx : 0 < x.den) (h : y.num ≠ 0) : 0 < (x.div y).den :=
  Nat.mul_pos hx (Int.natAbs_pos.mpr h)

theorem isZero_iff {x : Frac} (hx : 0 < x.den) : x.isZero = true ↔ x.toRat = 0 := by
  have : (x.den : ℚ) ≠ 0 := by positivity
  simp [isZero, toRat, this]

theorem num_eq_zero_iff {x : Frac} (hx : 0 < x.den) : x.num = 0 ↔ x.toRat = 0 := by
  have : (x.den : ℚ) ≠ 0 := by positivity
  simp [toRat, this]

theorem isNeg_iff {x : Frac} (hx : 0 < x.den) : x.isNeg = true ↔ x.toRat < 0 := by
  have : (0 : ℚ) < x.den := by positivity
  rw [isNeg, decide_eq_true_iff, toRat, div_lt_iff₀ this]
  simp

theorem lt_iff {x y : Frac} (hx : 0 < x.den) (hy : 0 < y.den) : x.lt y = true ↔ x.toRat < y.toRat := by
  have hx' : (0 : ℚ) < x.den := by positivity
  have hy' : (0 : ℚ) < y.den := by positivity
  rw [lt, decide_eq_true_iff, toRat, toRat, div_lt_div_iff₀ hx' hy']
  exact_mod_cast Iff.rfl

theorem abs_toRat_eq (x : Frac) (hx : 0 < x.den) : |x.toRat| = x.whole + (x.rest : ℚ) / x.den := by
  have hx' : (x.den : ℚ) ≠ 0 := by positivity
  have h : |x.toRat| = (x.num.natAbs : ℚ) / x.den := by simp [toRat, abs_div]
  rw [h, whole, rest]
  have := Nat.div_add_mod x.num.natAbs x.den
  field_simp
  exact_mod_cast this.symm

theorem rest_lt (x : Frac) (hx : 0 < x.den) : x.rest < x.den := Nat.mod_lt _ hx

theorem whole_eq (x : Frac) (hx : 0 < x.den) : x.whole = ⌊|(x.toRat : ℝ)|⌋₊ := by
  symm
  rw [Nat.floor_eq_iff (by positivity)]
  have h := abs_toRat_eq x hx
  have hl := rest_lt x hx
  have hx' : (0 : ℝ) < x.den := by positivity
  have h' : |(x.toRat : ℝ)| = x.whole + (x.rest : ℝ) / x.den := by
    have := congrArg (fun q : ℚ => (q : ℝ)) h; push_cast at this; exact this
  rw [h']
  constructor
  · have : (0 : ℝ) ≤ (x.rest : ℝ) / x.den := by positivity
    linarith
  · have : (x.rest : ℝ) / x.den < 1 := by rw [div_lt_one hx']; exact_mod_cast hl
    linarith

theorem rest_eq_zero_iff (x : Frac) (hx : 0 < x.den) : x.rest = 0 ↔ |(x.toRat : ℝ)| = ⌊|(x.toRat : ℝ)|⌋₊ := by
  rw [← whole_eq x hx]
  have h := abs_toRat_eq x hx
  have hx' : (x.den : ℝ) ≠ 0 := by positivity
  have h' : |(x.toRat : ℝ)| = x.whole + (x.rest : ℝ) / x.den := by
    have := congrArg (fun q : ℚ => (q : ℝ)) h; push_cast at this; exact this
  rw [h']
  constructor
  · intro h0; simp [h0]
  · intro h0
    have : (x.rest : ℝ) / x.den = 0 := by linarith
    rw [div_eq_zero_iff] at this
    rcases this with h1 | h1
    · exact_mod_cast h1
    · exact absurd h1 hx'

/-- `jam` is the jam of the absolute value (R184). -/
theorem jam_isJam (x : Frac) (hx : 0 < x.den) : IsJam |(x.toRat : ℝ)| x.jam := by
  unfold IsJam jam
  rw [← whole_eq x hx]
  by_cases h : x.rest = 0
  · have := (rest_eq_zero_iff x hx).1 h
    rw [← whole_eq x hx] at this
    simp [h, ← this]
  · have := mt (rest_eq_zero_iff x hx).2 h
    rw [← whole_eq x hx] at this
    simp [h, this]

/-- `nearestEven` is the nearest integer, ties to even. -/
theorem nearestEven_rounds (x : Frac) (hx : 0 < x.den) (sgn : Bool) : RoundsTo .ne sgn |(x.toRat : ℝ)| x.nearestEven := by
  have hl := rest_lt x hx
  have hx' : (0 : ℝ) < x.den := by positivity
  have h' : |(x.toRat : ℝ)| = x.whole + (x.rest : ℝ) / x.den := by
    have := congrArg (fun q : ℚ => (q : ℝ)) (abs_toRat_eq x hx); push_cast at this; exact this
  have hr0 : (0 : ℝ) ≤ (x.rest : ℝ) / x.den := by positivity
  have hr1 : (x.rest : ℝ) / x.den < 1 := by rw [div_lt_one hx']; exact_mod_cast hl
  simp only [RoundsTo, nearestEven, h']
  split_ifs with h
  · simp only [Bool.or_eq_true, decide_eq_true_eq, Bool.and_eq_true, beq_iff_eq] at h
    have hge : (1 : ℝ) / 2 ≤ (x.rest : ℝ) / x.den := by
      rw [div_le_div_iff₀ (by norm_num) hx']
      have : x.den ≤ 2 * x.rest := by rcases h with h | h <;> omega
      have : (x.den : ℝ) ≤ 2 * x.rest := by exact_mod_cast this
      linarith
    push_cast
    rw [abs_of_nonpos (by linarith)]
    refine ⟨by linarith, fun he => ?_⟩
    have : (x.rest : ℝ) / x.den = 1 / 2 := by linarith
    rw [div_eq_div_iff hx'.ne' (by norm_num)] at this
    have : x.rest * 2 = 1 * x.den := by exact_mod_cast this
    rcases h with h | h
    · omega
    · omega
  · simp only [Bool.or_eq_true, decide_eq_true_eq, Bool.and_eq_true, beq_iff_eq, not_or, not_and, not_lt] at h
    have hle : (x.rest : ℝ) / x.den ≤ 1 / 2 := by
      rw [div_le_div_iff₀ hx' (by norm_num)]
      have : (2 * x.rest : ℝ) ≤ x.den := by exact_mod_cast h.1
      linarith
    rw [abs_of_nonneg (by linarith)]
    refine ⟨by linarith, fun he => ?_⟩
    have : (x.rest : ℝ) / x.den = 1 / 2 := by linarith
    rw [div_eq_div_iff hx'.ne' (by norm_num)] at this
    have : x.rest * 2 = 1 * x.den := by exact_mod_cast this
    have := h.2 (by omega)
    omega

/-- `floorLog2` of a positive fraction (R11). -/
theorem floorLog2_spec (x : Frac) (hx : 0 < x.den) (h : 0 < x.num) :
    (2 : ℚ) ^ x.floorLog2 ≤ x.toRat ∧ x.toRat < 2 ^ (x.floorLog2 + 1) := by
  have hd : (0 : ℚ) < x.den := by positivity
  have hn0 : x.num.natAbs ≠ 0 := by omega
  have hnum : (x.num : ℚ) = (x.num.natAbs : ℚ) := by
    have : (x.num.natAbs : ℤ) = x.num := by omega
    rw [← Int.cast_natCast, this]
  have h1 : (2 : ℚ) ^ x.num.natAbs.log2 ≤ x.num := by rw [hnum]; exact_mod_cast Nat.log2_self_le hn0
  have h2 : (x.num : ℚ) < 2 ^ (x.num.natAbs.log2 + 1) := by rw [hnum]; exact_mod_cast Nat.lt_log2_self
  have h3 : (2 : ℚ) ^ x.den.log2 ≤ x.den := by exact_mod_cast Nat.log2_self_le (by omega)
  have h4 : (x.den : ℚ) < 2 ^ (x.den.log2 + 1) := by exact_mod_cast Nat.lt_log2_self
  have hk : ∀ k : ℤ, (scale (ofInt 1) k).toRat = 2 ^ k := fun k => by rw [toRat_scale]; simp
  have hup : x.toRat < 2 ^ ((x.num.natAbs.log2 : ℤ) - x.den.log2 + 1) := by
    rw [toRat, div_lt_iff₀ hd, show ((x.num.natAbs.log2 : ℤ) - x.den.log2 + 1) = ((x.num.natAbs.log2 + 1 : ℕ) : ℤ) - (x.den.log2 : ℕ) by
      push_cast; ring, zpow_sub₀ (by norm_num), zpow_natCast, zpow_natCast]
    calc (x.num : ℚ) < 2 ^ (x.num.natAbs.log2 + 1) := h2
      _ = 2 ^ (x.num.natAbs.log2 + 1) / 2 ^ x.den.log2 * 2 ^ x.den.log2 := by field_simp
      _ ≤ 2 ^ (x.num.natAbs.log2 + 1) / 2 ^ x.den.log2 * x.den := by gcongr
  have hlo : (2 : ℚ) ^ ((x.num.natAbs.log2 : ℤ) - x.den.log2 - 1) ≤ x.toRat := by
    rw [toRat, le_div_iff₀ hd, show ((x.num.natAbs.log2 : ℤ) - x.den.log2 - 1) = ((x.num.natAbs.log2 : ℕ) : ℤ) - (x.den.log2 + 1 : ℕ) by
      push_cast; ring, zpow_sub₀ (by norm_num), zpow_natCast, zpow_natCast]
    calc (2 : ℚ) ^ x.num.natAbs.log2 / 2 ^ (x.den.log2 + 1) * x.den
        ≤ 2 ^ x.num.natAbs.log2 / 2 ^ (x.den.log2 + 1) * 2 ^ (x.den.log2 + 1) := by gcongr
      _ = 2 ^ x.num.natAbs.log2 := by field_simp
      _ ≤ x.num := h1
  have hpos : 0 < (scale (ofInt 1) ((x.num.natAbs.log2 : ℤ) - x.den.log2)).den := den_pos_scale Nat.one_pos _
  have hle := lt_iff hx hpos
  rw [hk] at hle
  rw [floorLog2]
  split_ifs with hc
  · exact ⟨hlo, by rw [sub_add_cancel]; exact hle.1 hc⟩
  · exact ⟨not_lt.1 (mt hle.2 hc), hup⟩

end Frac

/-! ## The jamming shift -/

/-- `shrjam` by its definition (spec/40_multiword.md R108). -/
theorem shrjam_eq (x n : Nat) : shrjam x n = x / 2 ^ n ||| (if x % 2 ^ n = 0 then 0 else 1) := by
  unfold shrjam
  split_ifs with h h0 h1 h1
  · simp [h0]
  · exact absurd (by rw [h0]; exact Nat.zero_mod _) h1
  · rw [Nat.log2_lt h0] at h
    rw [Nat.mod_eq_of_lt h] at h1
    exact absurd h1 h0
  · rw [Nat.log2_lt h0] at h
    simp [Nat.div_eq_of_lt h]
  all_goals rfl

theorem shrjam_zero (x : Nat) : shrjam x 0 = x := by rw [shrjam_eq]; simp [Nat.mod_one]

/-! ## The integer square root -/

theorem isqrtBits_spec (n : Nat) : ∀ (k acc : Nat), acc * acc ≤ n → n < (acc + 2 ^ k) * (acc + 2 ^ k) →
    isqrtBits n k acc * isqrtBits n k acc ≤ n ∧ n < (isqrtBits n k acc + 1) * (isqrtBits n k acc + 1)
  | 0, acc, h1, h2 => ⟨h1, h2⟩
  | k + 1, acc, h1, h2 => by
    rw [isqrtBits]
    split_ifs with h
    · exact isqrtBits_spec n k _ h (by rw [show acc + 2 ^ k + 2 ^ k = acc + 2 ^ (k + 1) by rw [pow_succ]; ring]; exact h2)
    · exact isqrtBits_spec n k acc h1 (not_le.1 h)

theorem isqrt_eq (n : Nat) : isqrt n = n.sqrt := by
  have h2 : n < (0 + 2 ^ (n.log2 / 2 + 1)) * (0 + 2 ^ (n.log2 / 2 + 1)) := by
    rw [Nat.zero_add, ← pow_add]
    calc n < 2 ^ (n.log2 + 1) := Nat.lt_log2_self
      _ ≤ 2 ^ (n.log2 / 2 + 1 + (n.log2 / 2 + 1)) := Nat.pow_le_pow_right (by norm_num) (by omega)
  have h := isqrtBits_spec n (n.log2 / 2 + 1) 0 (by simp) h2
  exact (Nat.eq_sqrt.2 h)

end Sys2Proof.Machine
end

