-- ==== Sys2Proof/Laws/Formats.lean ====
section
/-!
SUPPORT. Laws/Formats.lean: the fields and the value of a pattern, and what the packer's addition does to the fields.
-/

namespace Sys2Proof

theorem Fmt.K_eq (F : Fmt) : F.K = F.M + F.EW + 1 := by cases F <;> rfl
theorem Fmt.K_le (F : Fmt) : F.K ≤ 128 := by cases F <;> decide
theorem Fmt.FB_le_M (F : Fmt) : F.FB ≤ F.M := by cases F <;> decide
theorem Fmt.N_eq (F : Fmt) : F.N = F.FB + F.G := rfl
theorem Fmt.emaxf_eq (F : Fmt) : F.emaxf = 2 * F.bias + 1 := by cases F <;> rfl
theorem Fmt.emaxf_lt (F : Fmt) : F.emaxf < 2 ^ F.EW := by cases F <;> decide
theorem Fmt.emaxf_ge (F : Fmt) : 31 ≤ F.emaxf := by cases F <;> decide

namespace Machine

theorem expf_lt (F : Fmt) (a : Pat) : expf F a < 2 ^ F.EW := Nat.mod_lt _ (by positivity)
theorem sigf_lt (F : Fmt) (a : Pat) : sigf F a < 2 ^ F.M := Nat.mod_lt _ (by positivity)
theorem frac_lt (F : Fmt) (a : Pat) : frac F a < 2 ^ F.FB := Nat.mod_lt _ (by positivity)
theorem expf_le (F : Fmt) (a : Pat) : expf F a ≤ F.emaxf := by have := expf_lt F a; simp only [Fmt.emaxf]; omega

theorem isInf_or_isNaN (F : Fmt) (a : Pat) (h : expf F a = F.emaxf) : isInf F a = true ∨ isNaN F a = true := by
  simp only [isInf, isNaN, h, beq_self_eq_true, Bool.true_and, beq_iff_eq, bne_iff_ne]; omega

theorem isFinite_iff (F : Fmt) (a : Pat) : isFinite F a = true ↔ isInf F a = false ∧ isNaN F a = false := by
  by_cases h : expf F a = F.emaxf
  · have := isInf_or_isNaN F a h
    simp only [isFinite, h, bne_self_eq_false, Bool.false_eq_true, false_iff, not_and]
    rcases this with h | h <;> simp [h]
  · simp [isFinite, isInf, isNaN, h]

theorem not_isInf_of_isNaN {F : Fmt} {a : Pat} (h : isNaN F a = true) : isInf F a = false := by
  simp only [isNaN, Bool.and_eq_true, bne_iff_ne] at h
  simp [isInf, h.2]

theorem valQ_eq_mag (F : Fmt) (a : Pat) : valQ F a = (if sign F a then -1 else 1) * ((magSig F a : ℚ) * 2 ^ magExp F a) := by
  unfold valQ magSig magExp
  congr 1
  rcases hb : F.explicitBit with _ | _
  · by_cases h : expf F a = 0
    · simp [h, Fmt.emin]
    · simp [h, show max (expf F a) 1 = expf F a by omega]
  · have : (F.FB : ℤ) = 63 := by cases F <;> first | rfl | exact absurd hb (by decide)
    simp [this]

theorem val_den_pos (F : Fmt) (a : Pat) : 0 < (val F a).den := Frac.den_pos_scale (by split_ifs <;> exact Nat.one_pos) _
theorem mag_den_pos (F : Fmt) (a : Pat) : 0 < (mag F a).den := Frac.den_pos_scale Nat.one_pos _

theorem val_toRat (F : Fmt) (a : Pat) : (val F a).toRat = valQ F a := by
  rw [valQ_eq_mag, val, Frac.toRat_scale]
  rcases sign F a <;> simp [Frac.toRat]

theorem abs_valQ (F : Fmt) (a : Pat) : |valQ F a| = (magSig F a : ℚ) * 2 ^ magExp F a := by
  rw [valQ_eq_mag, abs_mul, abs_of_nonneg (a := (magSig F a : ℚ) * 2 ^ magExp F a) (by positivity)]
  rcases sign F a <;> simp

theorem mag_toRat (F : Fmt) (a : Pat) : (mag F a).toRat = |valQ F a| := by
  rw [abs_valQ, mag, Frac.toRat_scale]
  simp [Frac.toRat]

theorem valQ_eq_sign_abs (F : Fmt) (a : Pat) : valQ F a = (if sign F a then -1 else 1) * |valQ F a| := by
  rw [abs_valQ, ← valQ_eq_mag]

theorem isValZero_iff (F : Fmt) (a : Pat) : isValZero F a = true ↔ valQ F a = 0 := by
  have h : (2 : ℚ) ^ magExp F a ≠ 0 := zpow_ne_zero _ (by norm_num)
  rw [isValZero, beq_iff_eq, ← abs_eq_zero, abs_valQ]
  simp [h]

theorem mag_num_eq_zero_iff (F : Fmt) (a : Pat) : (mag F a).num = 0 ↔ valQ F a = 0 := by
  rw [Frac.num_eq_zero_iff (mag_den_pos F a), mag_toRat, abs_eq_zero]

/-! ## The packer -/

/-- The fields of a number `s * 2^(K-1) + v` with `v` below the sign bit. -/
theorem fields_ofNat (F : Fmt) (s : Bool) (v : Nat) (hv : v < 2 ^ (F.M + F.EW)) :
    sign F (BitVec.ofNat 128 (s.toNat * 2 ^ (F.K - 1) + v)) = s ∧
    expf F (BitVec.ofNat 128 (s.toNat * 2 ^ (F.K - 1) + v)) = v / 2 ^ F.M ∧
    sigf F (BitVec.ofNat 128 (s.toNat * 2 ^ (F.K - 1) + v)) = v % 2 ^ F.M := by
  have hK : F.K - 1 = F.M + F.EW := by rw [Fmt.K_eq]; rfl
  have hK' : F.M + F.EW < 128 := by have := Fmt.K_le F; rw [Fmt.K_eq] at this; omega
  have hlt : s.toNat * 2 ^ (F.M + F.EW) + v < 2 ^ 128 := by
    have h1 : s.toNat ≤ 1 := Bool.toNat_le s
    have h2 : 2 ^ (F.M + F.EW + 1) ≤ 2 ^ 128 := Nat.pow_le_pow_right (by norm_num) (by omega)
    rw [pow_succ] at h2
    have h3 : s.toNat * 2 ^ (F.M + F.EW) ≤ 1 * 2 ^ (F.M + F.EW) := Nat.mul_le_mul_right _ h1
    omega
  have hto : (BitVec.ofNat 128 (s.toNat * 2 ^ (F.M + F.EW) + v)).toNat = s.toNat * 2 ^ (F.M + F.EW) + v := by
    rw [BitVec.toNat_ofNat, Nat.mod_eq_of_lt hlt]
  simp only [sign, expf, sigf, hK]
  refine ⟨?_, ?_, ?_⟩
  · rw [BitVec.getLsbD, hto]
    rcases s with _ | _
    · simp [Nat.testBit_lt_two_pow hv]
    · simp [Nat.testBit_two_pow_add_eq, Nat.testBit_lt_two_pow hv]
  · rw [hto, pow_add, ← mul_assoc, mul_right_comm, Nat.add_comm, Nat.add_mul_div_right _ _ (by positivity), Nat.add_comm,
      Nat.mul_add_mod_self_right]
    apply Nat.mod_eq_of_lt
    rw [Nat.div_lt_iff_lt_mul (by positivity), ← pow_add, Nat.add_comm]; exact hv
  · rw [hto, pow_add, ← mul_assoc, mul_right_comm, Nat.mul_add_mod_self_right]

/-- The packer's addition for the formats with an implicit bit (R148). -/
theorem pack_implicit (F : Fmt) (hF : F.explicitBit = false) (s : Bool) (e m : Nat) (h : e * 2 ^ F.M + m < 2 ^ (F.M + F.EW)) :
    sign F (pack F s e m) = s ∧ expf F (pack F s e m) = (e * 2 ^ F.M + m) / 2 ^ F.M ∧
    sigf F (pack F s e m) = (e * 2 ^ F.M + m) % 2 ^ F.M := by
  have hp : pack F s e m = BitVec.ofNat 128 (s.toNat * 2 ^ (F.K - 1) + (e * 2 ^ F.M + m)) := by
    rw [pack, hF]
    simp only [Bool.false_eq_true, if_false]
    rw [Nat.mod_eq_of_lt, Nat.add_assoc]
    have hK : F.K - 1 = F.M + F.EW := by rw [Fmt.K_eq]; rfl
    have h1 : s.toNat ≤ 1 := Bool.toNat_le s
    have h3 : s.toNat * 2 ^ (F.M + F.EW) ≤ 1 * 2 ^ (F.M + F.EW) := Nat.mul_le_mul_right _ h1
    rw [hK, Fmt.K_eq, pow_succ]
    omega
  rw [hp]
  exact fields_ofNat F s _ h

/-- The packer of F80 (R148): two words that do not overlap. -/
theorem pack_f80 (s : Bool) (e m : Nat) (he : e < 2 ^ 15) (hm : m < 2 ^ 64) :
    sign .f80 (pack .f80 s e m) = s ∧ expf .f80 (pack .f80 s e m) = e ∧ sigf .f80 (pack .f80 s e m) = m := by
  have h1 : s.toNat ≤ 1 := Bool.toNat_le s
  have hp : pack .f80 s e m = BitVec.ofNat 128 (s.toNat * 2 ^ (Fmt.f80.K - 1) + (e * 2 ^ 64 + m)) := by
    simp only [pack, Fmt.explicitBit, if_true, Fmt.K]
    rw [Nat.mod_eq_of_lt hm, Nat.mod_eq_of_lt (by omega)]
    refine congrArg (BitVec.ofNat 128) ?_
    ring
  rw [hp]
  have := fields_ofNat .f80 s (e * 2 ^ 64 + m) (by simp only [Fmt.M, Fmt.EW]; omega)
  refine ⟨this.1, ?_, ?_⟩
  · rw [this.2.1]; simp only [Fmt.M]; omega
  · rw [this.2.2]; simp only [Fmt.M]; omega

/-- Fields in range go in and come out (R149), for every format. -/
theorem pack_fields (F : Fmt) (s : Bool) (e m : Nat) (he : e < 2 ^ F.EW) (hm : m < 2 ^ F.M) :
    sign F (pack F s e m) = s ∧ expf F (pack F s e m) = e ∧ sigf F (pack F s e m) = m := by
  rcases hF : F.explicitBit with _ | _
  · have h : e * 2 ^ F.M + m < 2 ^ (F.M + F.EW) := by
      have : (e + 1) * 2 ^ F.M ≤ 2 ^ F.EW * 2 ^ F.M := Nat.mul_le_mul_right _ he
      rw [Nat.add_comm F.M, pow_add]; rw [Nat.add_mul] at this; omega
    have := pack_implicit F hF s e m h
    rw [Nat.mul_comm e, Nat.mul_add_div (by positivity), Nat.div_eq_of_lt hm, Nat.mul_add_mod, Nat.mod_eq_of_lt hm] at this
    exact this
  · have : F = .f80 := by cases F <;> first | rfl | exact absurd hF (by decide)
    subst this
    exact pack_f80 s e m he hm

theorem zero_fields (F : Fmt) (s : Bool) : sign F (zero F s) = s ∧ expf F (zero F s) = 0 ∧ sigf F (zero F s) = 0 :=
  pack_fields F s 0 0 (by positivity) (by positivity)

theorem inf_fields (F : Fmt) (s : Bool) : sign F (inf F s) = s ∧ expf F (inf F s) = F.emaxf ∧ sigf F (inf F s) = 0 :=
  pack_fields F s F.emaxf 0 F.emaxf_lt (by positivity)

theorem frac_eq (F : Fmt) (a : Pat) : frac F a = sigf F a % 2 ^ F.FB := by
  rw [frac, sigf, Nat.mod_mod_of_dvd _ (pow_dvd_pow 2 F.FB_le_M)]

theorem isZero_zero (F : Fmt) (s : Bool) : isZero F (zero F s) = true := by
  have := zero_fields F s; simp [isZero, this.2.1, this.2.2]

theorem valQ_zero (F : Fmt) (s : Bool) : valQ F (zero F s) = 0 := by
  have := zero_fields F s
  rw [← isValZero_iff]
  simp [isValZero, magSig, this.2.1, this.2.2]

theorem isInf_inf (F : Fmt) (s : Bool) : isInf F (inf F s) = true := by
  have := inf_fields F s
  simp [isInf, this.2.1, frac_eq, this.2.2]

/-- A pattern on a port: nothing above its `K` bits is read or written. -/
theorem pack_lt (F : Fmt) (s : Bool) (e m : Nat) : (pack F s e m).toNat < 2 ^ F.K := by
  rcases hF : F.explicitBit with _ | _
  · simp only [pack, hF, Bool.false_eq_true, if_false, BitVec.toNat_ofNat]
    exact lt_of_le_of_lt (Nat.mod_le _ _) (Nat.mod_lt _ (by positivity))
  · have : F = .f80 := by cases F <;> first | rfl | exact absurd hF (by decide)
    subst this
    simp only [pack, Fmt.explicitBit, if_true, BitVec.toNat_ofNat, Fmt.K]
    omega

end Machine

end Sys2Proof
end

