-- ==== Sys2Proof/Laws/Engine.lean ====
section
/-!
SUPPORT. Laws/Engine.lean: what the parts of the rounding engine compute, said of real numbers: the jam, the canonical input, the rounding of the
significand, the packing of the result.
-/

namespace Sys2Proof.Machine

/-! ## Jammed numbers -/

theorem or_one_eq (n : Nat) : n ||| 1 = if n % 2 = 0 then n + 1 else n := by
  apply Nat.eq_of_testBit_eq
  intro i
  rcases i with _ | i
  · split_ifs with h
    · simp [Nat.testBit_zero]; omega
    · simp [Nat.testBit_zero]; omega
  · rw [Nat.testBit_or, Nat.testBit_succ, Nat.testBit_succ, Nat.testBit_succ]
    split_ifs with h
    · rw [show (n + 1) / 2 = n / 2 by omega]; simp
    · simp

/-- A jam lies on the same side of every even threshold as the number jammed: no rounding decision can tell them apart. -/
theorem IsJam.lt_iff {t : ℝ} {z h : ℕ} (ht : 0 ≤ t) (hz : IsJam t z) (he : h % 2 = 0) : z < h ↔ t < h := by
  rw [← Nat.floor_lt ht, hz]
  split_ifs
  · simp
  · rw [or_one_eq]; split_ifs <;> omega

theorem IsJam.le_iff {t : ℝ} {z h : ℕ} (ht : 0 ≤ t) (hz : IsJam t z) (he : h % 2 = 0) : h ≤ z ↔ (h : ℝ) ≤ t := by
  rw [← not_lt, ← not_lt, hz.lt_iff ht he]

theorem IsJam.eq_iff {t : ℝ} {z h : ℕ} (_ht : 0 ≤ t) (hz : IsJam t z) (he : h % 2 = 0) : z = h ↔ t = h := by
  rw [hz]
  split_ifs with h1
  · rw [Nat.or_zero]
    constructor
    · intro h2; rw [h1, h2]
    · intro h2; rw [h2, Nat.floor_natCast]
  · constructor
    · intro h2; rw [or_one_eq] at h2; split_ifs at h2 <;> omega
    · intro h2; exact absurd (by rw [h2, Nat.floor_natCast]) h1

/-- A natural number is its own jam. -/
theorem isJam_natCast (n : ℕ) : IsJam (n : ℝ) n := by simp [IsJam]

theorem IsJam.unique {t : ℝ} {z z' : ℕ} (h : IsJam t z) (h' : IsJam t z') : z = z' := by rw [h, h']

/-- Jamming commutes with the jamming shift (R108's law, for the number behind the jam). -/
theorem IsJam.shrjam {t : ℝ} {z : ℕ} (ht : 0 ≤ t) (hz : IsJam t z) (n : ℕ) : IsJam (t / 2 ^ n) (shrjam z n) := by
  rcases n with _ | n
  · simpa [shrjam_zero] using hz
  have hp : (0 : ℝ) < 2 ^ (n + 1) := by positivity
  have hp' : 0 < 2 ^ (n + 1) := by positivity
  have he : ∀ k, (k * 2 ^ (n + 1)) % 2 = 0 := fun k => by rw [pow_succ, ← mul_assoc]; simp
  have h1 := hz.le_iff ht (he (z / 2 ^ (n + 1)))
  have h2 := hz.lt_iff ht (he (z / 2 ^ (n + 1) + 1))
  have h3 := hz.eq_iff ht (he (z / 2 ^ (n + 1)))
  have hdm := Nat.div_add_mod z (2 ^ (n + 1))
  have hlt := Nat.mod_lt z hp'
  have hfl : ⌊t / 2 ^ (n + 1)⌋₊ = z / 2 ^ (n + 1) := by
    rw [Nat.floor_eq_iff (by positivity)]
    push_cast at h1 h2
    constructor
    · rw [le_div_iff₀ hp]; exact h1.1 (Nat.div_mul_le_self _ _)
    · rw [div_lt_iff₀ hp]; exact h2.1 (by rw [Nat.add_mul, mul_comm]; omega)
  rw [IsJam, hfl, shrjam_eq]
  congr 1
  have : z % 2 ^ (n + 1) = 0 ↔ t / 2 ^ (n + 1) = ((z / 2 ^ (n + 1) : ℕ) : ℝ) := by
    rw [div_eq_iff hp.ne']
    push_cast at h3
    rw [← h3, mul_comm]
    omega
  by_cases hc : z % 2 ^ (n + 1) = 0
  · rw [if_pos hc, if_pos (this.1 hc)]
  · rw [if_neg hc, if_neg (mt this.2 hc)]

/-! ## The canonical engine input (R184) -/

/-- `toEngine` gives the canonical engine input of its argument. -/
theorem toEngine_spec (F : Fmt) (r : Frac) (hd : 0 < r.den) (hn : 0 < r.num) :
    EngineInput F (r.toRat : ℝ) (toEngine F r).1 (toEngine F r).2 := by
  have hs := Frac.floorLog2_spec r hd hn
  have hN : 0 < F.N := by cases F <;> decide
  obtain ⟨k, hk⟩ : ∃ k, F.N = k + 1 := ⟨F.N - 1, by omega⟩
  have hj := Frac.jam_isJam (r.scale (F.N - r.floorLog2)) (Frac.den_pos_scale hd _)
  have hpos : (0 : ℚ) < r.toRat := lt_of_lt_of_le (by positivity) hs.1
  have heq : ((r.scale (F.N - r.floorLog2)).toRat : ℝ) = (r.toRat : ℝ) * 2 ^ ((F.N : ℤ) - r.floorLog2) := by
    rw [Frac.toRat_scale]; push_cast; rfl
  have hpos' : (0 : ℝ) < r.toRat := by exact_mod_cast hpos
  rw [heq, abs_of_pos (by positivity)] at hj
  have hlo : (2 : ℝ) ^ F.N ≤ (r.toRat : ℝ) * 2 ^ ((F.N : ℤ) - r.floorLog2) := by
    have h : (2 : ℝ) ^ r.floorLog2 ≤ r.toRat := by simpa using (Rat.cast_le (K := ℝ)).2 hs.1
    calc (2 : ℝ) ^ F.N = 2 ^ r.floorLog2 * 2 ^ ((F.N : ℤ) - r.floorLog2) := by
          rw [← zpow_add₀ (by norm_num), add_sub_cancel, zpow_natCast]
      _ ≤ _ := by gcongr
  have hhi : (r.toRat : ℝ) * 2 ^ ((F.N : ℤ) - r.floorLog2) < 2 ^ (F.N + 1) := by
    have h : (r.toRat : ℝ) < 2 ^ (r.floorLog2 + 1) := by simpa using (Rat.cast_lt (K := ℝ)).2 hs.2
    calc (r.toRat : ℝ) * 2 ^ ((F.N : ℤ) - r.floorLog2) < 2 ^ (r.floorLog2 + 1) * 2 ^ ((F.N : ℤ) - r.floorLog2) := by gcongr
      _ = 2 ^ (F.N + 1) := by
        rw [← zpow_add₀ (by norm_num), show r.floorLog2 + 1 + ((F.N : ℤ) - r.floorLog2) = ((F.N + 1 : ℕ) : ℤ) by push_cast; ring,
          zpow_natCast]
  have h0 : (0 : ℝ) ≤ (r.toRat : ℝ) * 2 ^ ((F.N : ℤ) - r.floorLog2) := by positivity
  refine ⟨(hj.le_iff h0 (by rw [hk, pow_succ]; simp)).2 (by exact_mod_cast hlo),
    (hj.lt_iff h0 (by rw [pow_succ]; simp)).2 (by exact_mod_cast hhi), ?_⟩
  have hx : (F.bias : ℤ) + F.N - 1 - (toEngine F r).1 = (F.N : ℤ) - r.floorLog2 := by simp only [toEngine]; ring
  rw [hx]
  exact hj

/-- An engine input is the only one of its number. -/
theorem EngineInput.unique {F : Fmt} {r : ℝ} (hr : 0 < r) {e e' : ℤ} {z z' : ℕ} (h : EngineInput F r e z) (h' : EngineInput F r e' z') :
    e = e' ∧ z = z' := by
  have hN : 0 < F.N := by cases F <;> decide
  have hev : ∀ k, 0 < k → 2 ^ k % 2 = 0 := fun k hk => by
    obtain ⟨j, rfl⟩ : ∃ j, k = j + 1 := ⟨k - 1, by omega⟩
    rw [pow_succ]; simp
  have key : ∀ {e e' : ℤ} {z z' : ℕ}, EngineInput F r e z → EngineInput F r e' z' → e' ≤ e := by
    intro e e' z z' h h'
    by_contra hc
    have h0 : (0 : ℝ) ≤ r * 2 ^ ((F.bias : ℤ) + F.N - 1 - e) := by positivity
    have h0' : (0 : ℝ) ≤ r * 2 ^ ((F.bias : ℤ) + F.N - 1 - e') := by positivity
    have a := (h.2.2.lt_iff h0 (hev _ (by omega))).1 h.2.1
    have b := (h'.2.2.le_iff h0' (hev _ hN)).1 h'.1
    push_cast at a b
    have : (2 : ℝ) ^ (F.N + 1) ≤ r * 2 ^ ((F.bias : ℤ) + F.N - 1 - e) := by
      calc (2 : ℝ) ^ (F.N + 1) = 2 ^ F.N * 2 := pow_succ _ _
        _ ≤ r * 2 ^ ((F.bias : ℤ) + F.N - 1 - e') * 2 := by gcongr
        _ = r * 2 ^ ((F.bias : ℤ) + F.N - 1 - e' + 1) := by rw [zpow_add_one₀ (by norm_num)]; ring
        _ ≤ r * 2 ^ ((F.bias : ℤ) + F.N - 1 - e) := by
          gcongr
          · norm_num
          · omega
    linarith
  have he : e = e' := le_antisymm (key h' h) (key h h')
  subst he
  exact ⟨rfl, h.2.2.unique h'.2.2⟩

/-! ## The rounding of a significand (R171 steps S1, S5; the table of R182) -/

theorem div_add_half (z k : Nat) (h : 1 ≤ k) :
    (z + 2 ^ (k - 1)) / 2 ^ k = z / 2 ^ k + if 2 ^ (k - 1) ≤ z % 2 ^ k then 1 else 0 := by
  obtain ⟨j, rfl⟩ : ∃ j, k = j + 1 := ⟨k - 1, by omega⟩
  have hp : 0 < 2 ^ (j + 1) := by positivity
  have h2 : 2 ^ (j + 1) = 2 * 2 ^ j := by rw [pow_succ]; ring
  have hlt := Nat.mod_lt z hp
  rw [Nat.add_sub_cancel]
  conv_lhs => rw [← Nat.div_add_mod z (2 ^ (j + 1)), Nat.add_assoc, Nat.mul_add_div hp]
  congr 1
  split_ifs with h'
  · rw [Nat.div_eq_iff hp]; omega
  · rw [Nat.div_eq_of_lt (by omega)]

theorem div_add_mask (z k : Nat) : (z + (2 ^ k - 1)) / 2 ^ k = z / 2 ^ k + if z % 2 ^ k = 0 then 0 else 1 := by
  have hp : 0 < 2 ^ k := by positivity
  have hlt := Nat.mod_lt z hp
  conv_lhs => rw [← Nat.div_add_mod z (2 ^ k), Nat.add_assoc, Nat.mul_add_div hp]
  congr 1
  split_ifs with h'
  · rw [h', Nat.zero_add, Nat.div_eq_of_lt (by omega)]
  · rw [Nat.div_eq_iff hp]; omega

/-- `roundSig` rounds the number behind the jam, `k ≥ 2` bits discarded (R179, R182). -/
theorem roundSig_rounds (mode : RMode) (sgn : Bool) (k : ℕ) (hk : 2 ≤ k) {t : ℝ} {z : ℕ} (ht : 0 ≤ t) (hz : IsJam t z) :
    RoundsTo mode sgn (t / 2 ^ k) (roundSig mode sgn k z) := by
  obtain ⟨j, rfl⟩ : ∃ j, k = j + 2 := ⟨k - 2, by omega⟩
  have hp : (0 : ℝ) < 2 ^ (j + 2) := by positivity
  have hp' : 0 < 2 ^ (j + 2) := by positivity
  have hhalf : 2 ^ (j + 2) = 2 * 2 ^ (j + 1) := by rw [pow_succ]; ring
  have hdm := Nat.div_add_mod z (2 ^ (j + 2))
  have hlt := Nat.mod_lt z hp'
  generalize hlo : z / 2 ^ (j + 2) = lo at *
  generalize hrb : z % 2 ^ (j + 2) = rb at *
  have hev1 : (lo * 2 ^ (j + 2)) % 2 = 0 := by rw [pow_succ, ← mul_assoc]; simp
  have hev2 : (lo * 2 ^ (j + 2) + 2 ^ (j + 1)) % 2 = 0 := by
    rw [show lo * 2 ^ (j + 2) + 2 ^ (j + 1) = (lo * 2 ^ (j + 1) + 2 ^ j) * 2 by ring, Nat.mul_mod_left]
  have hev3 : ((lo + 1) * 2 ^ (j + 2)) % 2 = 0 := by rw [pow_succ, ← mul_assoc]; simp
  have a1 : (lo : ℝ) ≤ t / 2 ^ (j + 2) := by
    rw [le_div_iff₀ hp]; have := (hz.le_iff ht hev1).1 (by rw [mul_comm]; omega); exact_mod_cast this
  have a2 : t / 2 ^ (j + 2) < lo + 1 := by
    rw [div_lt_iff₀ hp]; have := (hz.lt_iff ht hev3).1 (by rw [Nat.add_mul, mul_comm]; omega); exact_mod_cast this
  have a3 : rb = 0 ↔ t / 2 ^ (j + 2) = lo := by
    rw [div_eq_iff hp.ne']
    have := hz.eq_iff ht hev1
    push_cast at this
    rw [← this, mul_comm]; omega
  have hm : ((lo * 2 ^ (j + 2) + 2 ^ (j + 1) : ℕ) : ℝ) = ((lo : ℝ) + 1 / 2) * 2 ^ (j + 2) := by
    push_cast; rw [pow_succ _ (j + 1)]; ring
  have a4 : rb < 2 ^ (j + 1) ↔ t / 2 ^ (j + 2) < lo + 1 / 2 := by
    rw [div_lt_iff₀ hp, ← hm, ← hz.lt_iff ht hev2, mul_comm]; omega
  have a5 : rb = 2 ^ (j + 1) ↔ t / 2 ^ (j + 2) = lo + 1 / 2 := by
    rw [div_eq_iff hp.ne', ← hm, ← hz.eq_iff ht hev2, mul_comm]; omega
  generalize t / 2 ^ (j + 2) = x at *
  have hq1 := div_add_half z (j + 2) (by omega)
  have hq2 := div_add_mask z (j + 2)
  rw [hlo, hrb, show j + 2 - 1 = j + 1 by omega] at hq1
  rw [hlo, hrb] at hq2
  have near : ∀ q : ℕ, (q = lo ∧ x < lo + 1 / 2) ∨ (q = lo + 1 ∧ lo + 1 / 2 < x) → |x - q| < 1 / 2 := by
    rintro q (⟨rfl, h⟩ | ⟨rfl, h⟩)
    · rw [abs_lt]; constructor <;> linarith
    · push_cast; rw [abs_lt]; constructor <;> linarith
  have tie : ∀ q : ℕ, q = lo ∨ q = lo + 1 → x = lo + 1 / 2 → |x - q| = 1 / 2 := by
    rintro q (rfl | rfl) h
    · rw [h]; norm_num
    · rw [h]; push_cast; rw [abs_of_nonpos (by linarith)]; ring
  have up : ∀ b : Bool, (if b then (0 : ℕ) else 2 ^ (j + 2) - 1) = 0 ∨ (if b then (0 : ℕ) else 2 ^ (j + 2) - 1) = 2 ^ (j + 2) - 1 := by
    intro b; cases b <;> simp
  have trunc : (lo : ℝ) ≤ x ∧ x < lo + 1 := ⟨a1, a2⟩
  have away : x ≤ ((lo + if rb = 0 then 0 else 1 : ℕ) : ℝ) ∧ ((lo + if rb = 0 then 0 else 1 : ℕ) : ℝ) < x + 1 := by
    split_ifs with h
    · have := a3.1 h; push_cast; constructor <;> linarith
    · have := lt_of_le_of_ne a1 (Ne.symm (mt a3.2 h)); push_cast; constructor <;> linarith
  rcases mode with _ | _ | _ | _ | _ | _
  · -- NE
    simp only [roundSig, roundInc, RoundsTo, show j + 2 - 1 = j + 1 by omega, hrb, hq1]
    rcases lt_trichotomy rb (2 ^ (j + 1)) with h | h | h
    · rw [if_neg (by omega), if_neg (by omega)]
      have := near (lo + 0) (Or.inl ⟨rfl, a4.1 h⟩)
      exact ⟨this.le, fun he => absurd he (by linarith)⟩
    · rw [if_pos h, if_pos (by omega)]
      refine ⟨le_of_eq (tie _ (by omega) (a5.1 h)), fun _ => by omega⟩
    · rw [if_neg (by omega), if_pos (by omega)]
      have hx : lo + 1 / 2 < x := lt_of_le_of_ne (not_lt.1 (mt a4.2 (by omega))) (fun he => by have := a5.2 he.symm; omega)
      have := near (lo + 1) (Or.inr ⟨rfl, hx⟩)
      exact ⟨this.le, fun he => absurd he (by linarith)⟩
  · -- NA
    simp only [roundSig, roundInc, RoundsTo, show j + 2 - 1 = j + 1 by omega, hq1]
    rcases lt_trichotomy rb (2 ^ (j + 1)) with h | h | h
    · rw [if_neg (by omega)]
      have := near (lo + 0) (Or.inl ⟨rfl, a4.1 h⟩)
      exact ⟨this.le, fun he => absurd he (by linarith)⟩
    · rw [if_pos (by omega)]
      refine ⟨le_of_eq (tie _ (by omega) (a5.1 h)), fun _ => by push_cast; rw [a5.1 h]; linarith⟩
    · rw [if_pos (by omega)]
      have hx : lo + 1 / 2 < x := lt_of_le_of_ne (not_lt.1 (mt a4.2 (by omega))) (fun he => by have := a5.2 he.symm; omega)
      have := near (lo + 1) (Or.inr ⟨rfl, hx⟩)
      exact ⟨this.le, fun he => absurd he (by linarith)⟩
  · simpa only [roundSig, roundInc, RoundsTo, Nat.add_zero, hlo] using trunc
  · cases sgn
    · simpa only [roundSig, roundInc, RoundsTo, Bool.false_eq_true, if_false, hq2] using away
    · simpa only [roundSig, roundInc, RoundsTo, if_true, Nat.add_zero, hlo] using trunc
  · cases sgn
    · simpa only [roundSig, roundInc, RoundsTo, Bool.false_eq_true, if_false, Nat.add_zero, hlo] using trunc
    · simpa only [roundSig, roundInc, RoundsTo, if_true, hq2] using away
  · -- ODD
    simp only [roundSig, RoundsTo, hlo, hrb]
    by_cases h : rb = 0
    · have := a3.1 h
      simp [h, this]
    · have hlt' := lt_of_le_of_ne a1 (Ne.symm (mt a3.2 h))
      rw [if_neg h, or_one_eq]
      refine ⟨?_, fun _ => by split_ifs <;> omega⟩
      split_ifs
      · push_cast; rw [abs_lt]; constructor <;> linarith
      · rw [abs_lt]; constructor <;> linarith

/-- The rounded significand is one of the two neighbours. -/
theorem roundSig_near (mode : RMode) (sgn : Bool) (k : ℕ) (hk : 1 ≤ k) (z : ℕ) :
    roundSig mode sgn k z = z / 2 ^ k ∨ roundSig mode sgn k z = z / 2 ^ k + 1 := by
  have h1 := div_add_half z k hk
  have h2 := div_add_mask z k
  have hodd := or_one_eq (z / 2 ^ k)
  rcases mode with _ | _ | _ | _ | _ | _
  · simp only [roundSig, roundInc, h1]; split_ifs <;> omega
  · simp only [roundSig, roundInc, h1]; split_ifs <;> omega
  · simp [roundSig, roundInc]
  · cases sgn
    · simp only [roundSig, roundInc, Bool.false_eq_true, if_false, h2]; split_ifs <;> omega
    · simp [roundSig, roundInc]
  · cases sgn
    · simp [roundSig, roundInc]
    · simp only [roundSig, roundInc, if_true, h2]; split_ifs <;> omega
  · simp only [roundSig]
    split_ifs
    · simp
    · rw [hodd]; split_ifs <;> omega

/-- No carry into the headroom bit, no carry out of the rounded significand. -/
theorem roundSig_lt (mode : RMode) (sgn : Bool) (k j z : ℕ) (h : z + roundInc mode sgn k < 2 ^ (j + 1 + k)) :
    roundSig mode sgn k z < 2 ^ (j + 1) := by
  have hq : (z + roundInc mode sgn k) / 2 ^ k < 2 ^ (j + 1) := by
    rw [Nat.div_lt_iff_lt_mul (by positivity), ← pow_add]; exact h
  rcases mode with _ | _ | _ | _ | _ | _
  · simp only [roundSig]; split_ifs <;> omega
  · simpa only [roundSig] using hq
  · simpa only [roundSig] using hq
  · simpa only [roundSig] using hq
  · simpa only [roundSig] using hq
  · simp only [roundSig]
    simp only [roundInc, Nat.add_zero] at hq
    apply Nat.or_lt_two_pow hq
    split_ifs <;> simp

/-- A whole number rounds to itself. -/
theorem RoundsTo.eq_of_natCast {mode : RMode} {sgn : Bool} {n q : ℕ} (h : RoundsTo mode sgn (n : ℝ) q) : q = n := by
  have cast : ∀ a b : ℕ, (a : ℝ) < b + 1 → a ≤ b := fun a b h => by exact_mod_cast Nat.lt_succ_iff.1 (by exact_mod_cast h)
  have trunc : (q : ℝ) ≤ n ∧ (n : ℝ) < q + 1 → q = n := fun ⟨h1, h2⟩ => le_antisymm (by exact_mod_cast h1) (cast _ _ h2)
  have away : (n : ℝ) ≤ q ∧ (q : ℝ) < n + 1 → q = n := fun ⟨h1, h2⟩ => le_antisymm (cast _ _ h2) (by exact_mod_cast h1)
  have near : |(n : ℝ) - q| < 1 → q = n := fun h => by
    rw [abs_lt] at h
    exact le_antisymm (cast _ _ (by linarith)) (cast _ _ (by linarith))
  rcases mode with _ | _ | _ | _ | _ | _
  · exact near (lt_of_le_of_lt h.1 (by norm_num))
  · exact near (lt_of_le_of_lt h.1 (by norm_num))
  · exact trunc h
  · cases sgn
    · exact away h
    · exact trunc h
  · cases sgn
    · exact trunc h
    · exact away h
  · exact near h.1

/-- Nothing is discarded exactly when the number is a multiple of the unit. -/
theorem mod_eq_zero_iff_of_jam (k : ℕ) (hk : 1 ≤ k) {t : ℝ} {z : ℕ} (ht : 0 ≤ t) (hz : IsJam t z) :
    z % 2 ^ k = 0 ↔ ∃ n : ℕ, t / 2 ^ k = n := by
  obtain ⟨j, rfl⟩ : ∃ j, k = j + 1 := ⟨k - 1, by omega⟩
  have hp : (0 : ℝ) < 2 ^ (j + 1) := by positivity
  have he : ∀ n, (n * 2 ^ (j + 1)) % 2 = 0 := fun n => by rw [pow_succ, ← mul_assoc]; simp
  constructor
  · intro h
    refine ⟨z / 2 ^ (j + 1), ?_⟩
    rw [div_eq_iff hp.ne']
    have := (hz.eq_iff ht (he (z / 2 ^ (j + 1)))).1 (by have := Nat.div_add_mod z (2 ^ (j + 1)); rw [mul_comm]; omega)
    exact_mod_cast this
  · rintro ⟨n, hn⟩
    rw [div_eq_iff hp.ne'] at hn
    have := (hz.eq_iff ht (he n)).2 (by exact_mod_cast hn)
    rw [this]; simp

/-- Rounding changes the number behind the jam exactly when bits are discarded. -/
theorem roundSig_exact_iff (mode : RMode) (sgn : Bool) (k : ℕ) (hk : 2 ≤ k) {t : ℝ} {z : ℕ} (ht : 0 ≤ t) (hz : IsJam t z) :
    z % 2 ^ k = 0 ↔ (roundSig mode sgn k z : ℝ) = t / 2 ^ k := by
  rw [mod_eq_zero_iff_of_jam k (by omega) ht hz]
  constructor
  · rintro ⟨n, hn⟩
    have := roundSig_rounds mode sgn k hk ht hz
    rw [hn] at this
    rw [hn, this.eq_of_natCast]
  · intro h; exact ⟨_, h.symm⟩

/-! ## Packing the rounded significand (R178, R181) -/

/-- `RPACK` past its checks: neither overflow nor flush. -/
theorem roundPackWith_eq (F : Fmt) (Ge : ℕ) (mode : RMode) (tin ftz sgn : Bool) (zExp : ℤ) (zSig : ℕ)
    (ho : ¬((F.emaxf : ℤ) - 2 < zExp ∨ (zExp = (F.emaxf : ℤ) - 2 ∧ 2 ^ (F.N + 1) ≤ zSig + roundInc mode sgn Ge)))
    (hf : ¬(zExp < 0 ∧ ftz = true)) :
    roundPackWith F Ge mode tin ftz sgn zExp zSig =
      let sig := if zExp < 0 then shrjam zSig (-zExp).toNat else zSig
      let q := roundSig mode sgn Ge sig
      { val := finish F sgn (if q = 0 then 0 else zExp.toNat) q Ge
        flags := flagIf ((decide (zExp < 0) && (!tin || decide (zExp < -1) || decide (zSig + roundInc mode sgn Ge < 2 ^ (F.N + 1)))) &&
          sig % 2 ^ Ge != 0) Flag.underflow ||| flagIf (sig % 2 ^ Ge != 0) Flag.inexact } := by
  simp only [roundPackWith]
  rw [if_neg ho, if_neg hf]

theorem readMode_eq (ctl : Word) (mode : RMode) (h : modeOf (ctl.toNat % 8) = some mode) : readMode ctl = .ok mode := by
  simp [readMode, ctlRM, h]

theorem modeOf_isSome (k : ℕ) (h : k ≤ 5) : ∃ m, modeOf k = some m := by
  interval_cases k <;> exact ⟨_, rfl⟩

theorem modeOf_le {k : ℕ} {m : RMode} (h : modeOf k = some m) : k ≤ 5 := by
  by_contra hc
  have : modeOf k = none := by
    unfold modeOf
    split <;> first | omega | rfl
  rw [this] at h; cases h

theorem readMode_error (ctl : Word) (h : ¬LegalMode ctl) : readMode ctl = .error .badRoundingMode := by
  have : modeOf (ctlRM ctl) = none := by
    rcases hm : modeOf (ctlRM ctl) with _ | m
    · rfl
    · exact absurd (modeOf_le hm) h
  simp [readMode, this]

theorem readGuard_eq (ctl : Word) (F : Fmt) (h : F = .f80 → LegalPrecision ctl) : readGuard ctl F = .ok (discarded ctl F) := by
  rcases hF : F.explicitBit with _ | _
  · have : F ≠ .f80 := by rintro rfl; exact absurd hF (by decide)
    simp [readGuard, hF, discarded, this]
  · have : F = .f80 := by cases F <;> first | rfl | exact absurd hF (by decide)
    have h := h this
    unfold LegalPrecision at h
    simp only [readGuard, if_true, discarded, this, ctlRP]
    generalize ctl.toNat / 64 % 4 = k at h ⊢
    interval_cases k <;> rfl

theorem readGuard_error (ctl : Word) (h : ¬LegalPrecision ctl) : readGuard ctl .f80 = .error .badRoundingPrecision := by
  unfold LegalPrecision at h
  simp only [readGuard, Fmt.explicitBit, if_true, ctlRP]
  have : ctl.toNat / 64 % 4 = 3 := by omega
  rw [this]; rfl

/-- Step S0 passed: `RPACK` is the rest of the listing. -/
theorem rpack_eq (ctl : Word) (F : Fmt) (mode : RMode) (hl : LegalFor F ctl) (hm : modeOf (ctl.toNat % 8) = some mode) (sgn : Bool)
    (zExp : ℤ) (zSig : ℕ) :
    rpack ctl F sgn zExp zSig = .ok (roundPackWith F (discarded ctl F) mode (ctlTIN ctl) (ctlFTZ ctl) sgn zExp zSig) := by
  simp [rpack, readMode_eq ctl mode hm, readGuard_eq ctl F hl.2]

/-- Step S0 failed. -/
theorem rpack_error (ctl : Word) (F : Fmt) (hl : ¬LegalFor F ctl) (sgn : Bool) (zExp : ℤ) (zSig : ℕ) :
    ∃ c, rpack ctl F sgn zExp zSig = .error c := by
  by_cases hm : LegalMode ctl
  · obtain ⟨mode, hmode⟩ := modeOf_isSome _ hm
    have hF : F = .f80 := by by_contra hc; exact hl ⟨hm, fun h => absurd h hc⟩
    subst hF
    exact ⟨.badRoundingPrecision, by simp [rpack, readMode_eq ctl mode hmode, readGuard_error ctl (fun h => hl ⟨hm, fun _ => h⟩)]⟩
  · exact ⟨.badRoundingMode, by simp [rpack, readMode_error ctl hm]⟩

theorem discarded_bounds (ctl : Word) (F : Fmt) (h : F = .f80 → LegalPrecision ctl) :
    F.G ≤ discarded ctl F ∧ (F.explicitBit = false → discarded ctl F = F.G) ∧ discarded ctl F ≤ F.N ∧ 2 ≤ discarded ctl F ∧
      discarded ctl F + 10 ≤ F.N := by
  rcases hF : F.explicitBit with _ | _
  · have : F ≠ .f80 := by rintro rfl; exact absurd hF (by decide)
    simp only [discarded, this, if_false]
    cases F <;> first | exact absurd rfl this | decide
  · have : F = .f80 := by cases F <;> first | rfl | exact absurd hF (by decide)
    have hk : ctl.toNat / 64 % 4 ≤ 2 := h this
    subst this
    simp only [discarded, if_true]
    generalize ctl.toNat / 64 % 4 = k at hk ⊢
    interval_cases k <;> decide

/-- `Finish` gives a finite pattern of the given sign and of the value `q` units, for a significand that the rounding can produce. -/
theorem finish_value (F : Fmt) (Ge : ℕ) (hGe : F.G ≤ Ge ∧ (F.explicitBit = false → Ge = F.G) ∧ Ge ≤ F.N) (s : Bool) (E q : ℕ)
    (hq : q ≤ 2 ^ (F.N - Ge + 1)) (hn : E = 0 ∨ 2 ^ (F.N - Ge) ≤ q) (hE : E ≤ F.emaxf - 2)
    (hc : E = F.emaxf - 2 → q < 2 ^ (F.N - Ge + 1)) :
    sign F (finish F s E q Ge) = s ∧ isFinite F (finish F s E q Ge) = true ∧
    |valQ F (finish F s E q Ge)| = q * 2 ^ ((E : ℤ) + 1 - F.bias - F.N + Ge) ∧
    (F.explicitBit = true → (2 ^ 63 ≤ sigf F (finish F s E q Ge) ↔ 1 ≤ expf F (finish F s E q Ge))) := by
  have hem := F.emaxf_ge
  rcases hF : F.explicitBit with _ | _
  · have hG : Ge = F.G := hGe.2.1 hF
    have hM : F.M = F.FB := by simp [Fmt.FB, hF]
    have hNG : F.N - Ge = F.FB := by rw [hG, Fmt.N_eq]; omega
    have hNG' : (F.N : ℤ) = F.FB + Ge := by rw [hG, Fmt.N_eq]; push_cast; ring
    rw [hNG] at hq hn hc
    have hpow : 2 ^ (F.FB + 1) = 2 * 2 ^ F.FB := by rw [pow_succ]; ring
    have hEW : F.emaxf + 1 = 2 ^ F.EW := by have : 0 < 2 ^ F.EW := by positivity
                                            simp only [Fmt.emaxf]; omega
    have hfit : E * 2 ^ F.M + q < 2 ^ (F.M + F.EW) := by
      rw [pow_add, ← hEW, hM]
      have h2 : 0 < 2 ^ F.FB := by positivity
      have : E * 2 ^ F.FB ≤ (F.emaxf - 2) * 2 ^ F.FB := Nat.mul_le_mul_right _ hE
      have h3 : 2 ^ F.FB * (F.emaxf + 1) = (F.emaxf - 2) * 2 ^ F.FB + 3 * 2 ^ F.FB := by
        rw [← Nat.add_mul, mul_comm]; congr 1; omega
      omega
    have hp := pack_implicit F hF s E q hfit
    have hfin : finish F s E q Ge = pack F s E q := by simp [finish, hF]
    rw [hfin]
    refine ⟨hp.1, ?_, ?_, by simp⟩
    · rw [isFinite, bne_iff_ne, hp.2.1, hM]
      rcases lt_or_ge q (2 ^ F.FB) with h | h
      · rw [show E = 0 by omega, Nat.zero_mul, Nat.zero_add, Nat.div_eq_of_lt h]; omega
      · rcases lt_or_ge q (2 ^ (F.FB + 1)) with h' | h'
        · rw [show E * 2 ^ F.FB + q = (q - 2 ^ F.FB) + (E + 1) * 2 ^ F.FB by rw [Nat.add_mul]; omega,
            Nat.add_mul_div_right _ _ (by positivity), Nat.div_eq_of_lt (by omega)]; omega
        · have hq' : q = 2 * 2 ^ F.FB := by omega
          rw [hq', ← Nat.add_mul, Nat.mul_div_cancel _ (by positivity)]; have := mt hc (by omega); omega
    · rw [abs_valQ, magSig, magExp, hF, hp.2.1, hp.2.2, hM]
      simp only [Bool.false_eq_true, if_false]
      rcases lt_or_ge q (2 ^ F.FB) with h | h
      · have hE0 : E = 0 := by omega
        simp only [hE0, Nat.zero_mul, Nat.zero_add, Nat.div_eq_of_lt h, Nat.mod_eq_of_lt h, if_true, hNG']
        congr 1
        congr 1
        rw [show max 0 1 = 1 from rfl]
        push_cast
        ring
      · rcases lt_or_ge q (2 ^ (F.FB + 1)) with h' | h'
        · have h1 : (E * 2 ^ F.FB + q) / 2 ^ F.FB = E + 1 := by
            rw [show E * 2 ^ F.FB + q = (q - 2 ^ F.FB) + (E + 1) * 2 ^ F.FB by rw [Nat.add_mul]; omega,
              Nat.add_mul_div_right _ _ (by positivity), Nat.div_eq_of_lt (by omega), Nat.zero_add]
          have h2 : (E * 2 ^ F.FB + q) % 2 ^ F.FB = q - 2 ^ F.FB := by
            rw [show E * 2 ^ F.FB + q = (q - 2 ^ F.FB) + (E + 1) * 2 ^ F.FB by rw [Nat.add_mul]; omega,
              Nat.add_mul_mod_self_right, Nat.mod_eq_of_lt (by omega)]
          rw [h1, h2, if_neg (by omega), show 2 ^ F.FB + (q - 2 ^ F.FB) = q by omega, hNG']
          congr 1
          congr 1
          rw [show max (E + 1) 1 = E + 1 by omega]
          push_cast
          ring
        · have hq' : q = 2 * 2 ^ F.FB := by omega
          have h1 : (E * 2 ^ F.FB + q) / 2 ^ F.FB = E + 2 := by
            rw [hq', ← Nat.add_mul, Nat.mul_div_cancel _ (by positivity)]
          have h2 : (E * 2 ^ F.FB + q) % 2 ^ F.FB = 0 := by rw [hq', ← Nat.add_mul, Nat.mul_mod_left]
          rw [h1, h2, if_neg (by omega), Nat.add_zero, hq', hNG', show max (E + 2) 1 = E + 2 by omega]
          push_cast
          rw [show (E : ℤ) + 2 - F.bias - F.FB = ((E : ℤ) + 1 - F.bias - (F.FB + Ge) + Ge) + 1 by ring, zpow_add_one₀ (by norm_num)]
          ring
  · have hF80 : F = .f80 := by cases F <;> first | rfl | exact absurd hF (by decide)
    subst hF80
    have hG : 63 ≤ Ge := hGe.1
    have hN : Fmt.f80.N = 126 := rfl
    have hGN : Ge ≤ 126 := hGe.2.2
    rw [hN] at hq hn hc
    have hEm : Fmt.f80.emaxf = 32767 := rfl
    have hpw : 2 ^ (126 - Ge) * 2 ^ (Ge - 63) = 2 ^ 63 := by rw [← pow_add]; congr 1; omega
    have hq64 : q * 2 ^ (Ge - 63) ≤ 2 ^ 64 := by
      calc q * 2 ^ (Ge - 63) ≤ 2 ^ (126 - Ge + 1) * 2 ^ (Ge - 63) := Nat.mul_le_mul_right _ hq
        _ = 2 ^ 64 := by rw [pow_succ, mul_right_comm, hpw]; rfl
    have hc64 : E = 32767 - 2 → q * 2 ^ (Ge - 63) < 2 ^ 64 := by
      intro h
      have := hc h
      calc q * 2 ^ (Ge - 63) < 2 ^ (126 - Ge + 1) * 2 ^ (Ge - 63) := Nat.mul_lt_mul_of_pos_right this (by positivity)
        _ = 2 ^ 64 := by rw [pow_succ, mul_right_comm, hpw]; rfl
    have hn64 : E = 0 ∨ 2 ^ 63 ≤ q * 2 ^ (Ge - 63) := by
      rcases hn with h | h
      · exact Or.inl h
      · right; rw [← hpw]; exact Nat.mul_le_mul_right _ h
    have hval : (q : ℚ) * 2 ^ ((E : ℤ) + 1 - Fmt.f80.bias - Fmt.f80.N + Ge) =
        ((q * 2 ^ (Ge - 63) : ℕ) : ℚ) * 2 ^ ((E : ℤ) + 1 - 16383 - 63) := by
      have : (Fmt.f80.bias : ℤ) = 16383 := rfl
      push_cast
      rw [this, hN, mul_assoc, ← zpow_natCast, ← zpow_add₀ (by norm_num), Nat.cast_sub hG]
      congr 2
      push_cast
      ring
    rw [hval]
    have hfin : finish .f80 s E q Ge = pack .f80 s (E + q * 2 ^ (Ge - 63) / 2 ^ 63) (if 2 ^ 64 ≤ q * 2 ^ (Ge - 63) then 2 ^ 63 else q * 2 ^ (Ge - 63)) := by
      simp [finish, Fmt.explicitBit]
    rw [hfin]
    generalize q * 2 ^ (Ge - 63) = z at *
    have hz : (if 2 ^ 64 ≤ z then 2 ^ 63 else z) < 2 ^ 64 := by split_ifs <;> omega
    have hE2 : E ≤ 32767 - 2 := by simpa [hEm] using hE
    have hex : E + z / 2 ^ 63 < 2 ^ 15 := by
      rcases Nat.lt_or_ge E (32767 - 2) with h | h
      · omega
      · have := hc64 (by omega); omega
    have hp := pack_f80 s _ _ hex hz
    have hbias : (Fmt.f80.bias : ℤ) = 16383 := rfl
    have hFB : (Fmt.f80.FB : ℤ) = 63 := rfl
    refine ⟨hp.1, ?_, ?_, ?_⟩
    · rw [isFinite, bne_iff_ne, hp.2.1, hEm]
      rcases Nat.lt_or_ge E (32767 - 2) with h | h
      · omega
      · have := hc64 (by omega); omega
    · rw [abs_valQ, magSig, magExp, hp.2.1, hp.2.2]
      simp only [Fmt.explicitBit, if_true, hbias, hFB]
      rcases lt_or_ge z (2 ^ 63) with h | h
      · have hE0 : E = 0 := by omega
        rw [if_neg (by omega), hE0, Nat.div_eq_of_lt h]
        norm_num
      · rcases lt_or_ge z (2 ^ 64) with h' | h'
        · rw [if_neg (by omega), show z / 2 ^ 63 = 1 by omega, show max (E + 1) 1 = E + 1 by omega]
          push_cast
          rfl
        · have hz' : z = 2 * 2 ^ 63 := by omega
          rw [if_pos h', show z / 2 ^ 63 = 2 by omega, show max (E + 2) 1 = E + 2 by omega, hz']
          push_cast
          rw [show (E : ℤ) + 2 - 16383 - 63 = ((E : ℤ) + 1 - 16383 - 63) + 1 by ring, zpow_add_one₀ (by norm_num)]
          ring
    · intro _
      rw [hp.2.1, hp.2.2]
      split_ifs <;> omega

end Sys2Proof.Machine
end

