-- ==== Sys2Proof/Laws/Operands.lean ====
section
/-!
SUPPORT. Laws/Operands.lean: operands as bit vectors and results as numbers: the ports' fields read two ways.
-/

namespace Sys2Proof

theorem Words.bits_le (n : Words) : n.bits ≤ 256 := by cases n <;> decide
theorem Words.bits_ge (n : Words) : 64 ≤ n.bits := by cases n <;> decide

namespace Machine

theorem bitsA_eq (k : ℕ) (s : State) : bitsA k s = (s.request.a.setWidth k).toNat := by simp [bitsA, BitVec.toNat_setWidth]
theorem bitsB_eq (k : ℕ) (s : State) : bitsB k s = (s.request.b.setWidth k).toNat := by simp [bitsB, BitVec.toNat_setWidth]
theorem wordsA_eq (n : Words) (s : State) : wordsA n s = (s.request.a.setWidth n.bits).toNat := bitsA_eq _ s
theorem wordsB_eq (n : Words) (s : State) : wordsB n s = (s.request.b.setWidth n.bits).toNat := bitsB_eq _ s
theorem shiftCount_eq (s : State) : shiftCount s = (s.request.b.setWidth 64).toNat := bitsB_eq _ s

/-- A result of `k` bits, as the bit vector it is. -/
theorem outBits_eq (k n : ℕ) (v : BitVec k) (h : v.toNat = n % 2 ^ k) : outBits k n = v.setWidth 256 := by
  apply BitVec.eq_of_toNat_eq
  simp only [outBits, BitVec.toNat_ofNat, BitVec.toNat_setWidth, h]

theorem outBits_of_lt {k n : ℕ} (h : n < 2 ^ k) : outBits k n = BitVec.ofNat 256 n := by rw [outBits, Nat.mod_eq_of_lt h]

theorem patA_lt (F : Fmt) (s : State) : (patA F s).toNat < 2 ^ F.K := by
  rw [patA, BitVec.toNat_setWidth]; exact lt_of_le_of_lt (Nat.mod_le _ _) (BitVec.isLt _)

theorem patB_lt (F : Fmt) (s : State) : (patB F s).toNat < 2 ^ F.K := by
  rw [patB, BitVec.toNat_setWidth]; exact lt_of_le_of_lt (Nat.mod_le _ _) (BitVec.isLt _)

theorem patC_lt (F : Fmt) (s : State) : (patC F s).toNat < 2 ^ F.K := by
  rw [patC, BitVec.toNat_setWidth]; exact lt_of_le_of_lt (Nat.mod_le _ _) (BitVec.isLt _)

/-- A pattern put on `R` and fed back on `A` is the pattern. -/
theorem patA_withOperands_outPat (F : Fmt) (p : Pat) (hp : p.toNat < 2 ^ F.K) (b : Wide) (c : Pat) (s : State) :
    patA F (s.withOperands (outPat F p) b c) = p := by
  apply BitVec.eq_of_toNat_eq
  have h1 : (2 : ℕ) ^ F.K ≤ 2 ^ 128 := Nat.pow_le_pow_right (by norm_num) (Fmt.K_le F)
  have h2 : (2 : ℕ) ^ 128 ≤ 2 ^ 256 := Nat.pow_le_pow_right (by norm_num) (by norm_num)
  simp only [patA, State.withOperands, outPat, BitVec.toNat_setWidth]
  rw [Nat.mod_eq_of_lt hp, Nat.mod_eq_of_lt (by omega : p.toNat < 2 ^ 256), Nat.mod_eq_of_lt hp, Nat.mod_eq_of_lt (by omega)]

theorem shrjam_lt (x n : ℕ) {k : ℕ} (h : x < 2 ^ k) : shrjam x n < 2 ^ k := by
  rw [shrjam_eq]
  rcases k with _ | k
  · have : x = 0 := by simpa using h
    simp [this]
  · apply Nat.or_lt_two_pow (lt_of_le_of_lt (Nat.div_le_self _ _) h)
    split_ifs <;> simp

/-- The law of R108. -/
theorem shrjam_shrjam (x a b : ℕ) : shrjam (shrjam x a) b = shrjam x (a + b) := by
  have h := ((isJam_natCast x).shrjam (by positivity) a).shrjam (by positivity) b
  have h' := (isJam_natCast x).shrjam (by positivity) (a + b)
  rw [div_div, ← pow_add] at h
  exact h.unique h'

end Machine

end Sys2Proof
end

