-- ==== Sys2Proof/Laws/Rounding.lean ====
section
/-!
SUPPORT. Laws/Rounding.lean: what the rounding engine gives, said of numbers: `RPACK` past its checks rounds the number behind its input.
-/

namespace Sys2Proof.Machine

theorem finish_lt (F : Fmt) (s : Bool) (E q Ge : ℕ) : (finish F s E q Ge).toNat < 2 ^ F.K := by
  unfold finish
  split_ifs <;> exact pack_lt _ _ _ _

/-- What `RPACK` gives, past its checks, for a well-formed input that neither overflows nor is flushed: the number `t` behind the input's jam,
rounded to a whole number of units (R179, R181). -/
theorem roundPackWith_value (F : Fmt) (Ge : ℕ) (hGe : F.G ≤ Ge ∧ (F.explicitBit = false → Ge = F.G) ∧ Ge + 1 ≤ F.N ∧ 2 ≤ Ge) (mode : RMode)
    (tin ftz sgn : Bool) (zExp : ℤ) (zSig : ℕ) {t : ℝ} (ht : 0 ≤ t) (hz : IsJam t zSig) (hs : zSig < 2 ^ (F.N + 1))
    (hn : 2 ^ F.N ≤ zSig ∨ zExp ≤ 0)
    (ho : zExp < (F.emaxf : ℤ) - 2 ∨ (zExp = (F.emaxf : ℤ) - 2 ∧ zSig + roundInc mode sgn Ge < 2 ^ (F.N + 1)))
    (hf : 0 ≤ zExp ∨ ftz = false) :
    ∃ (p : Pat) (q : ℕ) (m : Flags), roundPackWith F Ge mode tin ftz sgn zExp zSig = { val := p, flags := m } ∧
      p.toNat < 2 ^ F.K ∧ sign F p = sgn ∧ isFinite F p = true ∧ |valQ F p| = q * 2 ^ (max zExp 0 + 1 - F.bias - F.N + Ge) ∧
      RoundsTo mode sgn (t * 2 ^ (zExp - max zExp 0) / 2 ^ Ge) q ∧
      (m.getLsbD 4 = true ↔ (q : ℝ) ≠ t * 2 ^ (zExp - max zExp 0) / 2 ^ Ge) ∧ m.getLsbD 2 = false ∧
      (t * 2 ^ (zExp - max zExp 0) / 2 ^ Ge = q → m = 0) ∧
      (F.explicitBit = true → (2 ^ 63 ≤ sigf F p ↔ 1 ≤ expf F p)) := by
  obtain ⟨hG1, hG2, hG3, hG4⟩ := hGe
  rw [roundPackWith_eq F Ge mode tin ftz sgn zExp zSig (by omega) (by rcases hf with h | h <;> simp [h])]
  have hsig : IsJam (t * 2 ^ (zExp - max zExp 0)) (if zExp < 0 then shrjam zSig (-zExp).toNat else zSig) := by
    split_ifs with h
    · have := hz.shrjam ht (-zExp).toNat
      rw [max_eq_right h.le, show zExp - 0 = -(((-zExp).toNat : ℕ) : ℤ) by omega, zpow_neg, zpow_natCast, ← div_eq_mul_inv]
      exact this
    · rw [max_eq_left (by omega), sub_self, zpow_zero, mul_one]; exact hz
  have ht' : 0 ≤ t * 2 ^ (zExp - max zExp 0) := by positivity
  have hsl : (if zExp < 0 then shrjam zSig (-zExp).toNat else zSig) < 2 ^ (F.N + 1) := by
    split_ifs with h
    · exact shrjam_lt _ _ hs
    · exact hs
  have hsn : 2 ^ F.N ≤ (if zExp < 0 then shrjam zSig (-zExp).toNat else zSig) ∨ zExp ≤ 0 := by
    rcases hn with h | h
    · by_cases h' : zExp < 0
      · exact Or.inr h'.le
      · left; rw [if_neg h']; exact h
    · exact Or.inr h
  have hso : zExp = (F.emaxf : ℤ) - 2 → (if zExp < 0 then shrjam zSig (-zExp).toNat else zSig) + roundInc mode sgn Ge < 2 ^ (F.N + 1) := by
    intro h
    have := F.emaxf_ge
    rw [if_neg (by omega)]; omega
  dsimp only
  generalize (if zExp < 0 then shrjam zSig (-zExp).toNat else zSig) = sig at *
  generalize t * 2 ^ (zExp - max zExp 0) = t' at *
  have hr := roundSig_rounds mode sgn Ge hG4 ht' hsig
  have hex := roundSig_exact_iff mode sgn Ge hG4 ht' hsig
  have hq : roundSig mode sgn Ge sig ≤ 2 ^ (F.N - Ge + 1) := by
    have hd : sig / 2 ^ Ge < 2 ^ (F.N - Ge + 1) := by
      rw [Nat.div_lt_iff_lt_mul (by positivity), ← pow_add, show F.N - Ge + 1 + Ge = F.N + 1 by omega]; exact hsl
    rcases roundSig_near mode sgn Ge (by omega) sig with h | h <;> omega
  have hq2 : zExp ≤ 0 ∨ 2 ^ (F.N - Ge) ≤ roundSig mode sgn Ge sig := by
    rcases hsn with h | h
    · right
      have hd : 2 ^ (F.N - Ge) ≤ sig / 2 ^ Ge := by
        rw [Nat.le_div_iff_mul_le (by positivity), ← pow_add, show F.N - Ge + Ge = F.N by omega]; exact h
      rcases roundSig_near mode sgn Ge (by omega) sig with h | h <;> omega
    · exact Or.inl h
  have hq3 : zExp = (F.emaxf : ℤ) - 2 → roundSig mode sgn Ge sig < 2 ^ (F.N - Ge + 1) := fun h =>
    roundSig_lt mode sgn Ge (F.N - Ge) sig (by rw [show F.N - Ge + 1 + Ge = F.N + 1 by omega]; exact hso h)
  generalize roundSig mode sgn Ge sig = q at *
  have hem := F.emaxf_ge
  obtain ⟨h1, h2, h3, h4⟩ := finish_value F Ge ⟨hG1, hG2, by omega⟩ sgn (if q = 0 then 0 else zExp.toNat) q hq
    (by rcases hq2 with h | h
        · left; split_ifs <;> omega
        · exact Or.inr h)
    (by split_ifs <;> omega)
    (by intro h; split_ifs at h with h0
        · omega
        · exact hq3 (by omega))
  refine ⟨_, q, _, rfl, finish_lt _ _ _ _ _, h1, h2, ?_, hr, ?_, ?_, ?_, h4⟩
  · rw [h3]
    split_ifs with h0
    · simp [h0]
    · rw [show ((zExp.toNat : ℕ) : ℤ) = max zExp 0 by omega]
  · rw [← not_iff_not, not_not, ← hex]
    by_cases hb : sig % 2 ^ Ge = 0 <;> simp [hb, flagIf, Flag.underflow, Flag.inexact]
  · generalize (decide (zExp < 0) && _ && _) = b1
    generalize (sig % 2 ^ Ge != 0) = b2
    revert b1 b2; decide
  · intro h
    have := hex.2 h.symm
    simp [this, flagIf]

end Sys2Proof.Machine
end

