-- ==== Sys2Proof/Laws/Arith.lean ====
section
/-!
SUPPORT. Laws/Arith.lean: what the arithmetic and the comparisons compute, said of numbers: exact sums and remainders, the square root, exact results,
the engine's flags and exponents, the order of values.
-/

namespace Sys2Proof.Machine

/-! ## The engine's input, and the order of values -/

/-- `roundPack` hands the engine the canonical input of its argument (R184). -/
theorem roundPack_input (ctl : Word) (F : Fmt) (sgn : Bool) {r : Frac} (hd : 0 < r.den) (hn : 0 < r.num) :
    ∃ zExp zSig, EngineInput F (r.toRat : ℝ) zExp zSig ∧ roundPack ctl F sgn r = rpack ctl F sgn zExp zSig :=
  ⟨_, _, toEngine_spec F r hd hn, rfl⟩

/-- The same at full precision (R230). -/
theorem roundPackFull_input (ctl : Word) (F : Fmt) (sgn : Bool) {r : Frac} (hd : 0 < r.den) (hn : 0 < r.num) :
    ∃ zExp zSig, EngineInput F (r.toRat : ℝ) zExp zSig ∧ roundPackFull ctl F sgn r = rpackFull ctl F sgn zExp zSig :=
  ⟨_, _, toEngine_spec F r hd hn, rfl⟩

theorem signedMag_toRat (F : Fmt) (s : Bool) (a : Pat) : (signedMag F s a).toRat = (if s then -1 else 1) * |valQ F a| := by
  cases s <;> simp [signedMag, mag_toRat]

theorem signedMag_den_pos (F : Fmt) (s : Bool) (a : Pat) : 0 < (signedMag F s a).den := by
  cases s
  · exact mag_den_pos F a
  · exact mag_den_pos F a

/-- The order of magnitudes, as the model decides it and as a proposition. -/
theorem extMagLt_iff (F : Fmt) (a b : Pat) : extMagLt F a b = true ↔ ExtMagLt F a b := by
  have := Frac.lt_iff (mag_den_pos F a) (mag_den_pos F b)
  rw [mag_toRat, mag_toRat] at this
  simp only [ExtMagLt, ← this]
  unfold extMagLt
  cases isInf F a <;> cases isInf F b <;> simp

/-- The order of the extended reals, as the model decides it and as a proposition (R290). -/
theorem extLt_iff (F : Fmt) (a b : Pat) : extLt F a b = true ↔ ExtLt F a b := by
  have := Frac.lt_iff (val_den_pos F a) (val_den_pos F b)
  rw [val_toRat, val_toRat] at this
  simp only [ExtLt, ← this]
  unfold extLt
  cases isInf F a <;> cases isInf F b <;> cases sign F a <;> cases sign F b <;> simp

/-- A negative value has its sign bit set. -/
theorem sign_of_valQ_neg {F : Fmt} {a : Pat} (h : valQ F a < 0) : sign F a = true := by
  by_contra hc
  rw [valQ_eq_sign_abs, if_neg hc, one_mul] at h
  exact absurd h (not_lt.2 (abs_nonneg _))

/-- A positive value has its sign bit clear. -/
theorem sign_of_valQ_pos {F : Fmt} {a : Pat} (h : 0 < valQ F a) : sign F a = false := by
  by_contra hc
  rw [valQ_eq_sign_abs, if_pos (by simpa using hc)] at h
  linarith [abs_nonneg (valQ F a)]

/-- Of a finite pattern, the class that the arithmetic rules call zero is the value zero (R251). -/
theorem isFiniteZero_iff {F : Fmt} {a : Pat} (h : isFinite F a = true) : isFiniteZero F a = true ↔ valQ F a = 0 := by
  have h2 := (isFinite_iff F a).1 h
  simp [isFiniteZero, h2.1, h2.2, isValZero_iff]

theorem isNaN_of_isInf {F : Fmt} {a : Pat} (h : isInf F a = true) : isNaN F a = false := by
  by_contra hc
  rw [not_isInf_of_isNaN (by simpa using hc)] at h
  exact Bool.noConfusion h

/-- The sum that `FMA` rounds (R260). -/
theorem fmaSum_toRat (F : Fmt) (m : FmaMods) (ps cs : Bool) (a b c : Pat) :
    (fmaSum F m ps cs a b c).toRat =
      ((if ps then -1 else 1) * (|valQ F a| * |valQ F b|) + (if cs then -1 else 1) * |valQ F c|) * (if m.halve then 1 / 2 else 1) := by
  have hp := Frac.den_pos_mul (mag_den_pos F a) (mag_den_pos F b)
  have hc := signedMag_den_pos F cs c
  unfold fmaSum
  cases ps <;> cases m.halve <;>
    simp only [Bool.false_eq_true, if_false, if_true, Frac.toRat_scale, Frac.toRat_add hp hc,
      Frac.toRat_add (x := ((mag F a).mul (mag F b)).neg) hp hc, Frac.toRat_neg, Frac.toRat_mul, mag_toRat, signedMag_toRat] <;> norm_num

/-! ## The square root -/

/-- The jam of a square root, from the integer square root (R261). -/
theorem isJam_sqrt (n : ℕ) :
    IsJam (Real.sqrt ((4 * n : ℕ) : ℝ)) (2 * n.sqrt + if n.sqrt * n.sqrt = n then 0 else 1) := by
  have h1 : n.sqrt * n.sqrt ≤ n := Nat.sqrt_le n
  have h2 : n < (n.sqrt + 1) * (n.sqrt + 1) := Nat.lt_succ_sqrt n
  split_ifs with h
  · have : Real.sqrt ((4 * n : ℕ) : ℝ) = ((2 * n.sqrt : ℕ) : ℝ) := by
      rw [Real.sqrt_eq_iff_mul_self_eq (by positivity) (by positivity)]
      push_cast
      have : (n.sqrt : ℝ) * n.sqrt = n := by exact_mod_cast h
      linear_combination -4 * this
    rw [this]
    exact isJam_natCast _
  · have hlo : ((2 * n.sqrt : ℕ) : ℝ) < Real.sqrt ((4 * n : ℕ) : ℝ) := by
      rw [Real.lt_sqrt (by positivity)]
      have : (n.sqrt * n.sqrt) < n := lt_of_le_of_ne h1 h
      have : (n.sqrt : ℝ) * n.sqrt < n := by exact_mod_cast this
      push_cast
      nlinarith
    have hhi : Real.sqrt ((4 * n : ℕ) : ℝ) < ((2 * n.sqrt + 2 : ℕ) : ℝ) := by
      rw [Real.sqrt_lt' (by positivity)]
      have : (n : ℝ) < (n.sqrt + 1) * (n.sqrt + 1) := by exact_mod_cast h2
      push_cast
      nlinarith
    generalize Real.sqrt ((4 * n : ℕ) : ℝ) = y at *
    have hy : 0 ≤ y := le_trans (by positivity) hlo.le
    have hf1 : 2 * n.sqrt ≤ ⌊y⌋₊ := Nat.le_floor hlo.le
    have hf2 : ⌊y⌋₊ < 2 * n.sqrt + 2 := (Nat.floor_lt hy).2 hhi
    rw [IsJam]
    rcases Nat.lt_or_ge ⌊y⌋₊ (2 * n.sqrt + 1) with hc | hc
    · have hfl : ⌊y⌋₊ = 2 * n.sqrt := by omega
      rw [hfl, if_neg hlo.ne', or_one_eq, if_pos (by omega)]
    · have hfl : ⌊y⌋₊ = 2 * n.sqrt + 1 := by omega
      rw [hfl]
      split_ifs
      · simp
      · rw [or_one_eq, if_neg (by omega)]

/-- The engine input of a jammed number is that of the number behind the jam, when the jam has bits to spare. -/
theorem EngineInput.of_jam {F : Fmt} {y : ℝ} {z : ℕ} (hy : 0 ≤ y) (hz : IsJam y z) (hN : 2 ^ (F.N + 1) ≤ z) {k e : ℤ} {zs : ℕ}
    (h : EngineInput F ((z : ℝ) * 2 ^ k) e zs) : EngineInput F (y * 2 ^ k) e zs := by
  obtain ⟨h1, h2, h3⟩ := h
  refine ⟨h1, h2, ?_⟩
  rw [mul_assoc, ← zpow_add₀ (by norm_num)] at h3 ⊢
  generalize k + ((F.bias : ℤ) + F.N - 1 - e) = j at *
  have hlt := (h3.lt_iff (by positivity) (show 2 ^ (F.N + 1) % 2 = 0 by rw [pow_succ]; simp)).1 h2
  have hj : j < 0 := by
    by_contra hc
    have : (1 : ℝ) ≤ 2 ^ j := one_le_zpow₀ (by norm_num) (by omega)
    have h4 : ((2 ^ (F.N + 1) : ℕ) : ℝ) ≤ z := by exact_mod_cast hN
    have h5 : (z : ℝ) * 1 ≤ z * 2 ^ j := mul_le_mul_of_nonneg_left this (by positivity)
    linarith
  obtain ⟨n, rfl⟩ : ∃ n : ℕ, j = -(n : ℤ) := ⟨(-j).toNat, by omega⟩
  rw [zpow_neg, zpow_natCast, ← div_eq_mul_inv] at h3 ⊢
  rw [h3.unique ((isJam_natCast z).shrjam (by positivity) n)]
  exact hz.shrjam hy n

theorem magSig_pos {F : Fmt} {a : Pat} (h : valQ F a ≠ 0) : 0 < magSig F a := by
  rcases Nat.eq_zero_or_pos (magSig F a) with h' | h'
  · exact absurd (by rw [valQ_eq_mag, h']; simp) h
  · exact h'

/-- The root that `FSQRT` hands to the engine is rounded like the real square root (R261). -/
theorem sqrtFrac_input (F : Fmt) (a : Pat) (h : 0 < valQ F a) :
    (0 < (sqrtFrac F a).den ∧ 0 < (sqrtFrac F a).num) ∧
      EngineInput F (Real.sqrt (valQ F a)) (toEngine F (sqrtFrac F a)).1 (toEngine F (sqrtFrac F a)).2 := by
  have hv : valQ F a = (magSig F a : ℚ) * 2 ^ magExp F a := by rw [← abs_valQ, abs_of_pos h]
  have hm := magSig_pos h.ne'
  obtain ⟨m, e, hm', he, hme, hfrac⟩ : ∃ (m : ℕ) (e : ℤ), 0 < m ∧ e % 2 = 0 ∧ valQ F a = (m : ℚ) * 2 ^ e ∧
      sqrtFrac F a = Frac.scale (Frac.ofInt (2 * isqrt (m * 4 ^ (F.N + 1)) + (if isqrt (m * 4 ^ (F.N + 1)) * isqrt (m * 4 ^ (F.N + 1)) = m * 4 ^ (F.N + 1) then 0 else 1) : ℕ))
        (e / 2 - (F.N + 1 : ℕ) - 1) := by
    by_cases ho : magExp F a % 2 = 1
    · refine ⟨magSig F a * 2, magExp F a - 1, by omega, by omega, ?_, by simp [sqrtFrac, ho]⟩
      rw [hv, zpow_sub_one₀ (by norm_num)]; push_cast; ring
    · exact ⟨magSig F a, magExp F a, hm, by omega, hv, by simp [sqrtFrac, ho]⟩
  rw [isqrt_eq] at hfrac
  have hj := isJam_sqrt (m * 4 ^ (F.N + 1))
  generalize hz : 2 * (m * 4 ^ (F.N + 1)).sqrt + (if (m * 4 ^ (F.N + 1)).sqrt * (m * 4 ^ (F.N + 1)).sqrt = m * 4 ^ (F.N + 1) then 0 else 1) = z at *
  obtain ⟨k, rfl⟩ : ∃ k, e = 2 * k := ⟨e / 2, by omega⟩
  rw [show 2 * k / 2 = k by omega] at hfrac
  have hs : 2 ^ (F.N + 1) ≤ (m * 4 ^ (F.N + 1)).sqrt := by
    rw [Nat.le_sqrt, ← mul_pow]
    exact Nat.le_mul_of_pos_left _ hm'
  have hzN : 2 ^ (F.N + 1) ≤ z := by omega
  have hz0 : 0 < z := lt_of_lt_of_le (by positivity) hzN
  have hd : 0 < (sqrtFrac F a).den := by rw [hfrac]; exact Frac.den_pos_scale Nat.one_pos _
  have hr : (sqrtFrac F a).toRat = z * 2 ^ (k - (F.N + 1 : ℕ) - 1) := by rw [hfrac, Frac.toRat_scale, Frac.toRat_ofInt]; push_cast; rfl
  have hn : 0 < (sqrtFrac F a).num := by
    have : 0 < (sqrtFrac F a).toRat := by rw [hr]; positivity
    have hd' : (0 : ℚ) < (sqrtFrac F a).den := by exact_mod_cast hd
    rw [Frac.toRat, lt_div_iff₀ hd', zero_mul] at this
    exact_mod_cast this
  refine ⟨⟨hd, hn⟩, ?_⟩
  have hin := toEngine_spec F _ hd hn
  rw [hr] at hin
  push_cast at hin
  have := EngineInput.of_jam (Real.sqrt_nonneg _) hj hzN (k := k - (F.N + 1 : ℕ) - 1) (by push_cast; exact hin)
  convert this using 1
  rw [hme]
  push_cast
  rw [Real.sqrt_eq_iff_mul_self_eq (by positivity) (by positivity)]
  have hsq : Real.sqrt (4 * (m * 4 ^ (F.N + 1))) * Real.sqrt (4 * (m * 4 ^ (F.N + 1))) = 4 * (m * 4 ^ (F.N + 1)) :=
    Real.mul_self_sqrt (by positivity)
  have h4 : (4 : ℝ) ^ (F.N + 1) = 2 ^ ((F.N : ℤ) + 1) * 2 ^ ((F.N : ℤ) + 1) := by
    rw [show (4 : ℝ) = 2 * 2 by norm_num, mul_pow]; norm_cast
  have hzp : (2 : ℝ) ^ (2 * k) = 4 * (2 ^ ((F.N : ℤ) + 1) * 2 ^ ((F.N : ℤ) + 1)) * (2 ^ (k - ((F.N : ℤ) + 1) - 1) * 2 ^ (k - ((F.N : ℤ) + 1) - 1)) := by
    rw [show (4 : ℝ) = 2 ^ (2 : ℤ) by norm_num]
    simp only [← zpow_add₀ (show (2 : ℝ) ≠ 0 by norm_num)]
    congr 1; ring
  rw [mul_mul_mul_comm, hsq, h4, hzp]
  ring

/-! ## Remainders and whole numbers -/

theorem mag_num_pos {F : Fmt} {a : Pat} (h : valQ F a ≠ 0) : 0 < (mag F a).num := by
  have h1 : (mag F a).toRat = |valQ F a| := mag_toRat F a
  have h2 : 0 < (mag F a).toRat := by rw [h1]; exact abs_pos.2 h
  have hd : (0 : ℚ) < (mag F a).den := by exact_mod_cast mag_den_pos F a
  rw [Frac.toRat, lt_div_iff₀ hd, zero_mul] at h2
  exact_mod_cast h2

/-- The remainder of two finite numbers: `x - n * y` for the integer `n` nearest to `x / y`, ties to even (R259). -/
theorem remainder_spec (F : Fmt) (a b : Pat) (hb : valQ F b ≠ 0) :
    0 < (remainder F a b).den ∧ ∃ n : ℤ, (remainder F a b).toRat = valQ F a - n * valQ F b ∧
      |valQ F a / valQ F b - n| ≤ 1 / 2 ∧ (|valQ F a / valQ F b - n| = 1 / 2 → n % 2 = 0) := by
  have hbn := (mag_num_pos hb).ne'
  have hdd := Frac.den_pos_div (mag_den_pos F a) hbn
  have hdiv := Frac.toRat_div (mag F a) (mag F b) (mag_den_pos F b) hbn
  rw [mag_toRat, mag_toRat] at hdiv
  have hne := Frac.nearestEven_rounds _ hdd true
  simp only [RoundsTo] at hne
  rw [hdiv] at hne
  have hden : 0 < (remainder F a b).den := Frac.den_pos_add (val_den_pos F a) (Frac.den_pos_mul Nat.one_pos (val_den_pos F b))
  generalize hq : ((mag F a).div (mag F b)).nearestEven = q at *
  have habs : |((|valQ F a| / |valQ F b| : ℚ) : ℝ)| = ((|valQ F a| / |valQ F b| : ℚ) : ℝ) := abs_of_nonneg (by positivity)
  rw [habs] at hne
  have hneQ : |(|valQ F a| / |valQ F b|) - q| ≤ 1 / 2 ∧ (|(|valQ F a| / |valQ F b|) - q| = 1 / 2 → q % 2 = 0) := by
    refine ⟨?_, fun h => hne.2 ?_⟩
    · have : ((|(|valQ F a| / |valQ F b|) - q| : ℚ) : ℝ) ≤ ((1 / 2 : ℚ) : ℝ) := by push_cast at hne ⊢; exact hne.1
      exact Rat.cast_le.1 this
    · have := congrArg (fun x : ℚ => (x : ℝ)) h
      push_cast at this ⊢
      exact this
  refine ⟨hden, if sign F a = sign F b then -(-(q : ℤ)) else -(q : ℤ), ?_, ?_⟩
  · rw [remainder, hq, Frac.toRat_add (val_den_pos F a) (Frac.den_pos_mul Nat.one_pos (val_den_pos F b)), Frac.toRat_mul, Frac.toRat_ofInt,
      val_toRat, val_toRat]
    split_ifs <;> push_cast <;> ring
  · have hx := valQ_eq_sign_abs F a
    have hy := valQ_eq_sign_abs F b
    have hxy : valQ F a / valQ F b = (if sign F a = sign F b then 1 else -1) * (|valQ F a| / |valQ F b|) := by
      rw [hx, hy]
      cases sign F a <;> cases sign F b <;> simp [neg_div, div_neg]
    rw [hxy]
    generalize |valQ F a| / |valQ F b| = w at *
    split_ifs
    · push_cast
      rw [one_mul, neg_neg]
      exact ⟨hneQ.1, fun h => by have := hneQ.2 h; omega⟩
    · push_cast
      rw [show -1 * w - -(q : ℚ) = -(w - q) by ring, abs_neg]
      exact ⟨hneQ.1, fun h => by have := hneQ.2 h; omega⟩

/-- `PackExact` of a whole number that fits the precision gives the pattern of that number (R253). -/
theorem packExact_value (F : Fmt) (sgn : Bool) (q : ℕ) (h1 : 0 < q) (h2 : q < 2 ^ (F.FB + 1)) :
    (packExact F sgn (Frac.ofInt q)).toNat < 2 ^ F.K ∧ sign F (packExact F sgn (Frac.ofInt q)) = sgn ∧
      isFinite F (packExact F sgn (Frac.ofInt q)) = true ∧ |valQ F (packExact F sgn (Frac.ofInt q))| = q ∧
      (F.explicitBit = true →
        (2 ^ 63 ≤ sigf F (packExact F sgn (Frac.ofInt q)) ↔ 1 ≤ expf F (packExact F sgn (Frac.ofInt q)))) := by
  have hs := Frac.floorLog2_spec (Frac.ofInt q) Nat.one_pos (by simpa [Frac.ofInt] using h1)
  have hin := toEngine_spec F (Frac.ofInt q) Nat.one_pos (by simpa [Frac.ofInt] using h1)
  have hz1 : (toEngine F (Frac.ofInt q)).1 = (Frac.ofInt q).floorLog2 + F.bias - 1 := rfl
  rw [Frac.toRat_ofInt] at hs hin
  unfold packExact
  generalize (Frac.ofInt q).floorLog2 = e at *
  rw [hz1] at hin
  simp only [hz1]
  generalize (toEngine F (Frac.ofInt q)).2 = z at *
  have he0 : 0 ≤ e := by
    by_contra hc
    have : (2 : ℚ) ^ (e + 1) ≤ 1 := zpow_le_one_of_nonpos₀ (by norm_num) (by omega)
    have h3 : ((q : ℤ) : ℚ) < 1 := lt_of_lt_of_le hs.2 this
    have : q < 1 := by exact_mod_cast h3
    omega
  obtain ⟨k, rfl⟩ : ∃ k : ℕ, e = k := ⟨e.toNat, by omega⟩
  have hk1 : 2 ^ k ≤ q := by have := hs.1; rw [zpow_natCast] at this; exact_mod_cast this
  have hk2 : q < 2 ^ (k + 1) := by have := hs.2; rw [← Nat.cast_succ, zpow_natCast] at this; exact_mod_cast this
  have hkF : k ≤ F.FB := by
    have := Nat.pow_lt_pow_iff_right (a := 2) (by norm_num) |>.1 (lt_of_le_of_lt hk1 h2)
    omega
  have hNeq := F.N_eq
  have hb : F.FB ≤ F.bias ∧ 1 ≤ F.bias ∧ 0 < F.G := by cases F <;> decide
  have hz : z = q * 2 ^ (F.N - k) := by
    have h3 := hin.2.2
    rw [show (F.bias : ℤ) + F.N - 1 - ((k : ℤ) + F.bias - 1) = ((F.N - k : ℕ) : ℤ) by omega, zpow_natCast] at h3
    have h4 : ((((q : ℤ) : ℚ) : ℝ) * 2 ^ (F.N - k)) = ((q * 2 ^ (F.N - k) : ℕ) : ℝ) := by push_cast; rfl
    rw [h4] at h3
    exact h3.unique (isJam_natCast _)
  rw [show (-((k : ℤ) + F.bias - 1)).toNat = 0 by omega, Nat.add_zero, show ((k : ℤ) + F.bias - 1).toNat = k + F.bias - 1 by omega]
  have hq : z / 2 ^ F.G = q * 2 ^ (F.FB - k) := by
    rw [hz, show F.N - k = F.FB - k + F.G by omega, pow_add, ← mul_assoc, Nat.mul_div_cancel _ (by positivity)]
  rw [hq]
  have hem := F.emaxf_eq
  have hlo : 2 ^ F.FB ≤ q * 2 ^ (F.FB - k) := by
    calc 2 ^ F.FB = 2 ^ k * 2 ^ (F.FB - k) := by rw [← pow_add]; congr 1; omega
      _ ≤ _ := Nat.mul_le_mul_right _ hk1
  have hhi : q * 2 ^ (F.FB - k) < 2 ^ (F.FB + 1) := by
    calc q * 2 ^ (F.FB - k) < 2 ^ (k + 1) * 2 ^ (F.FB - k) := Nat.mul_lt_mul_of_pos_right hk2 (by positivity)
      _ = 2 ^ (F.FB + 1) := by rw [← pow_add]; congr 1; omega
  have hNG : F.N - F.G = F.FB := by omega
  obtain ⟨a1, a2, a3, a4⟩ := finish_value F F.G ⟨le_refl _, fun _ => rfl, by omega⟩ sgn (k + F.bias - 1) (q * 2 ^ (F.FB - k))
    (by rw [hNG]; exact hhi.le) (Or.inr (by rw [hNG]; exact hlo)) (by omega) (fun _ => by rw [hNG]; exact hhi)
  refine ⟨finish_lt _ _ _ _ _, a1, a2, ?_, a4⟩
  rw [a3]
  push_cast
  rw [mul_assoc, ← zpow_natCast, ← zpow_add₀ (by norm_num)]
  rw [show ((F.FB - k : ℕ) : ℤ) + (((k + F.bias - 1 : ℕ) : ℤ) + 1 - F.bias - F.N + F.G) = 0 by omega, zpow_zero, mul_one]

/-! ## Exponents, flags and exact results of the engine -/

/-- The engine exponent says where the number lies. -/
theorem EngineInput.bounds {F : Fmt} {r : ℝ} (hr : 0 < r) {e : ℤ} {z : ℕ} (h : EngineInput F r e z) :
    (2 : ℝ) ^ (e + 1 - F.bias) ≤ r ∧ r < 2 ^ (e + 2 - F.bias) := by
  obtain ⟨h1, h2, h3⟩ := h
  have hN : 0 < F.N := by cases F <;> decide
  have h0 : (0 : ℝ) ≤ r * 2 ^ ((F.bias : ℤ) + F.N - 1 - e) := by positivity
  have a := (h3.le_iff h0 (show 2 ^ F.N % 2 = 0 by obtain ⟨j, hj⟩ : ∃ j, F.N = j + 1 := ⟨F.N - 1, by omega⟩; rw [hj, pow_succ]; simp)).1 h1
  have b := (h3.lt_iff h0 (show 2 ^ (F.N + 1) % 2 = 0 by rw [pow_succ]; simp)).1 h2
  push_cast at a b
  have hp : (0 : ℝ) < 2 ^ ((F.bias : ℤ) + F.N - 1 - e) := by positivity
  constructor
  · refine le_of_mul_le_mul_right ?_ hp
    rw [← zpow_add₀ (by norm_num), show e + 1 - F.bias + ((F.bias : ℤ) + F.N - 1 - e) = (F.N : ℤ) by ring, zpow_natCast]
    exact a
  · refine lt_of_mul_lt_mul_right ?_ hp.le
    rw [← zpow_add₀ (by norm_num), show e + 2 - F.bias + ((F.bias : ℤ) + F.N - 1 - e) = ((F.N + 1 : ℕ) : ℤ) by push_cast; ring, zpow_natCast]
    exact b

/-- A number below a power of two has an engine exponent below it. -/
theorem EngineInput.exp_lt {F : Fmt} {r : ℝ} (hr : 0 < r) {e : ℤ} {z : ℕ} (h : EngineInput F r e z) {k : ℤ} (hk : r < 2 ^ k) :
    e + 1 < k + F.bias := by
  have := lt_of_le_of_lt (h.bounds hr).1 hk
  have := (zpow_lt_zpow_iff_right₀ (by norm_num : (1 : ℝ) < 2)).1 this
  omega

/-- A number from a power of two on has an engine exponent from it on. -/
theorem EngineInput.le_exp {F : Fmt} {r : ℝ} (hr : 0 < r) {e : ℤ} {z : ℕ} (h : EngineInput F r e z) {k : ℤ} (hk : (2 : ℝ) ^ k ≤ r) :
    k + F.bias ≤ e + 1 := by
  have := lt_of_le_of_lt hk (h.bounds hr).2
  have := (zpow_lt_zpow_iff_right₀ (by norm_num : (1 : ℝ) < 2)).1 this
  omega

theorem magSig_lt (F : Fmt) (a : Pat) : magSig F a < 2 ^ (F.FB + 1) := by
  have h := sigf_lt F a
  unfold magSig
  rcases hF : F.explicitBit with _ | _
  · have hM : F.M = F.FB := by simp [Fmt.FB, hF]
    rw [hM] at h
    have : 2 ^ (F.FB + 1) = 2 * 2 ^ F.FB := by rw [pow_succ]; ring
    simp only [Bool.false_eq_true, if_false]
    split_ifs <;> omega
  · have hM : F.M = F.FB + 1 := by cases F <;> first | rfl | exact absurd hF (by decide)
    rw [hM] at h
    simpa using h

theorem le_magExp (F : Fmt) (a : Pat) : F.emin - F.FB ≤ magExp F a := by
  unfold magExp Fmt.emin; omega

/-- Every finite value is below two to the first exponent that is too large. -/
theorem abs_valQ_lt {F : Fmt} {a : Pat} (h : isFinite F a = true) : |valQ F a| < 2 ^ ((F.bias : ℤ) + 1) := by
  rw [isFinite, bne_iff_ne] at h
  have h1 := expf_le F a
  have h2 := F.emaxf_eq
  have h3 := F.emaxf_ge
  have hs : ((magSig F a : ℕ) : ℚ) < ((2 ^ (F.FB + 1) : ℕ) : ℚ) := by exact_mod_cast magSig_lt F a
  rw [abs_valQ]
  calc (magSig F a : ℚ) * 2 ^ magExp F a < ((2 ^ (F.FB + 1) : ℕ) : ℚ) * 2 ^ magExp F a := by gcongr
    _ = 2 ^ ((F.FB : ℤ) + 1 + magExp F a) := by
      push_cast; rw [zpow_add₀ (by norm_num)]; norm_cast
    _ ≤ 2 ^ ((F.bias : ℤ) + 1) := by
      apply zpow_le_zpow_right₀ (by norm_num)
      unfold magExp; omega

/-- The flags that `RPACK` can set, past its checks (R171): overflow's two, the flush's one, or those of a rounded result. -/
theorem roundPackWith_flags_cases (F : Fmt) (Ge : ℕ) (mode : RMode) (tin ftz sgn : Bool) (zExp : ℤ) (zSig : ℕ) :
    (roundPackWith F Ge mode tin ftz sgn zExp zSig).flags = Flag.overflow ||| Flag.inexact ∨
      (roundPackWith F Ge mode tin ftz sgn zExp zSig).flags = Flag.outputDenormal ∨
      ∃ tiny inexact : Bool, (roundPackWith F Ge mode tin ftz sgn zExp zSig).flags =
        flagIf (tiny && inexact) Flag.underflow ||| flagIf inexact Flag.inexact := by
  unfold roundPackWith
  dsimp only
  split
  · exact .inl rfl
  · split
    · exact .inr (.inl rfl)
    · exact .inr (.inr ⟨_, _, rfl⟩)

/-- The flags of `RPACK` (R171, R341): the engine's four only; `OVERFLOW` and `UNDERFLOW` come with `INEXACT`, a flush with none of the three. -/
theorem roundPackWith_flags (F : Fmt) (Ge : ℕ) (mode : RMode) (tin ftz sgn : Bool) (zExp : ℤ) (zSig : ℕ) {m : Flags}
    (hm : (roundPackWith F Ge mode tin ftz sgn zExp zSig).flags = m) :
    m &&& ~~~(Flag.overflow ||| Flag.underflow ||| Flag.inexact ||| Flag.outputDenormal) = 0 ∧
      (m.getLsbD 2 = true → m.getLsbD 4 = true) ∧ (m.getLsbD 3 = true → m.getLsbD 4 = true) ∧
      (m.getLsbD 6 = true → m.getLsbD 2 = false ∧ m.getLsbD 3 = false ∧ m.getLsbD 4 = false) := by
  rcases roundPackWith_flags_cases F Ge mode tin ftz sgn zExp zSig with h | h | ⟨b1, b2, h⟩
  · rw [← hm, h]; decide
  · rw [← hm, h]; decide
  · rw [← hm, h]; clear h hm; revert b1 b2; decide

/-- Without overflow or tininess, `RPACK` can set `INEXACT` only. -/
theorem roundPackWith_flags_normal (F : Fmt) (Ge : ℕ) (mode : RMode) (tin ftz sgn : Bool) (zExp : ℤ) (zSig : ℕ) (h0 : 0 ≤ zExp)
    (h1 : zExp < (F.emaxf : ℤ) - 2) :
    ∃ inexact : Bool, (roundPackWith F Ge mode tin ftz sgn zExp zSig).flags = flagIf inexact Flag.inexact := by
  rw [roundPackWith_eq F Ge mode tin ftz sgn zExp zSig (by omega) (by omega)]
  dsimp only
  rw [show decide (zExp < 0) = false by simp; omega]
  exact ⟨_, BitVec.zero_or⟩

theorem roundInc_lt (mode : RMode) (sgn : Bool) (Ge : ℕ) (h : 1 ≤ Ge) : roundInc mode sgn Ge < 2 ^ Ge := by
  obtain ⟨j, rfl⟩ : ∃ j, Ge = j + 1 := ⟨Ge - 1, by omega⟩
  have h1 : 0 < 2 ^ (j + 1) := by positivity
  have h2 : 2 ^ (j + 1) = 2 * 2 ^ j := by rw [pow_succ]; ring
  have h3 : 0 < 2 ^ j := by positivity
  have h4 : j + 1 - 1 = j := rfl
  cases mode <;> simp only [roundInc, h4] <;> (try split_ifs) <;> omega

/-- `RPACK` of a number that the format holds exactly (R179): no rounding flag; the number itself, unless it is flushed. -/
theorem roundPackWith_exact (F : Fmt) (mode : RMode) (tin ftz sgn : Bool) {k : ℕ} {e : ℤ} (hk : 0 < k) (hk2 : k < 2 ^ (F.FB + 1))
    (he : F.emin - F.FB ≤ e) (hlt : (k : ℝ) * 2 ^ e < 2 ^ ((F.bias : ℤ) + 1)) {zExp : ℤ} {zSig : ℕ}
    (h : EngineInput F ((k : ℝ) * 2 ^ e) zExp zSig) :
    (zExp < 0 ∧ ftz = true → roundPackWith F F.G mode tin ftz sgn zExp zSig = { val := zero F sgn, flags := Flag.outputDenormal }) ∧
    (¬(zExp < 0 ∧ ftz = true) → ∃ p : Pat, roundPackWith F F.G mode tin ftz sgn zExp zSig = { val := p, flags := 0 } ∧
      p.toNat < 2 ^ F.K ∧ sign F p = sgn ∧ isFinite F p = true ∧ |valQ F p| = (k : ℚ) * 2 ^ e ∧
      (F.explicitBit = true → (2 ^ 63 ≤ sigf F p ↔ 1 ≤ expf F p))) := by
  have hr : (0 : ℝ) < (k : ℝ) * 2 ^ e := by positivity
  have hmax := h.exp_lt hr hlt
  have hem := F.emaxf_eq
  have hem3 := F.emaxf_ge
  have hG : 2 ≤ F.G ∧ F.G + 1 ≤ F.N := by cases F <;> decide
  have hN := F.N_eq
  have hzk : zExp + 1 < (F.FB : ℤ) + 1 + e + F.bias := by
    refine h.exp_lt hr (k := (F.FB : ℤ) + 1 + e) ?_
    rw [zpow_add₀ (by norm_num)]
    have : (k : ℝ) < ((2 ^ (F.FB + 1) : ℕ) : ℝ) := by exact_mod_cast hk2
    push_cast at this
    gcongr
    exact_mod_cast this
  unfold Fmt.emin at he
  obtain ⟨j, hj⟩ : ∃ j : ℕ, e + F.bias + F.FB - 1 - max zExp 0 = j := ⟨(e + F.bias + F.FB - 1 - max zExp 0).toNat, by omega⟩
  obtain ⟨z1, z2, z3⟩ := h
  have hunits : (k : ℝ) * 2 ^ e * 2 ^ ((F.bias : ℤ) + F.N - 1 - zExp) * 2 ^ (zExp - max zExp 0) / 2 ^ F.G = ((k * 2 ^ j : ℕ) : ℝ) := by
    rw [← zpow_natCast 2 F.G, mul_assoc, mul_assoc, ← zpow_add₀ (by norm_num), ← zpow_add₀ (by norm_num), mul_div_assoc, ← zpow_sub₀ (by norm_num),
      show e + ((F.bias : ℤ) + F.N - 1 - zExp + (zExp - max zExp 0)) - F.G = ((j : ℕ) : ℤ) by omega]
    push_cast
    rw [zpow_natCast]
  constructor
  · rintro ⟨h1, h2⟩
    unfold roundPackWith
    dsimp only
    rw [if_neg (by omega), if_pos ⟨h1, h2⟩]
  · intro hf
    have hcarry : zExp = (F.emaxf : ℤ) - 2 → zSig + roundInc mode sgn F.G < 2 ^ (F.N + 1) := by
      intro h1
      have h0 : max zExp 0 = zExp := by omega
      rw [h0, sub_self, zpow_zero, mul_one, div_eq_iff (by positivity)] at hunits
      rw [hunits] at z3
      have hz : zSig = k * 2 ^ j * 2 ^ F.G := z3.unique (by have := isJam_natCast (k * 2 ^ j * 2 ^ F.G); push_cast at this ⊢; exact this)
      have hinc := roundInc_lt mode sgn F.G (by omega)
      rw [hz, show F.N + 1 = F.FB + 1 + F.G by omega, pow_add] at z2 ⊢
      have hlt := Nat.lt_of_mul_lt_mul_right z2
      have : (k * 2 ^ j + 1) * 2 ^ F.G ≤ 2 ^ (F.FB + 1) * 2 ^ F.G := Nat.mul_le_mul_right _ hlt
      rw [Nat.add_mul] at this
      omega
    obtain ⟨p, q, m, a1, a2, a3, a4, a5, a6, a7, a8, a9, a10⟩ := roundPackWith_value F F.G ⟨le_refl _, fun _ => rfl, hG.2, hG.1⟩ mode tin ftz sgn zExp zSig
      (t := (k : ℝ) * 2 ^ e * 2 ^ ((F.bias : ℤ) + F.N - 1 - zExp)) (by positivity) z3 z2 (Or.inl z1)
      (by rcases lt_or_ge zExp ((F.emaxf : ℤ) - 2) with h | h
          · exact Or.inl h
          · have : zExp = (F.emaxf : ℤ) - 2 := by omega
            exact Or.inr ⟨this, hcarry this⟩)
      (by rcases lt_or_ge zExp 0 with h | h
          · right; cases ftz
            · rfl
            · exact absurd ⟨h, rfl⟩ hf
          · exact Or.inl h)
    rw [hunits] at a6 a9
    have hq := a6.eq_of_natCast
    subst hq
    have hm := a9 rfl
    subst hm
    refine ⟨p, a1, a2, a3, a4, ?_, a10⟩
    rw [a5]
    push_cast
    rw [mul_assoc, ← zpow_natCast, ← zpow_add₀ (by norm_num)]
    congr 2
    omega

/-! ## A remainder is exact -/

/-- A remainder is a number that the format holds exactly (R259). -/
theorem remainder_exact (F : Fmt) (a b : Pat) (ha : isFinite F a = true) (hb : valQ F b ≠ 0) (hr : (remainder F a b).toRat ≠ 0) :
    ∃ (k : ℕ) (e : ℤ), 0 < k ∧ k < 2 ^ (F.FB + 1) ∧ F.emin - F.FB ≤ e ∧ |(remainder F a b).toRat| = (k : ℚ) * 2 ^ e ∧
      (k : ℝ) * 2 ^ e < 2 ^ ((F.bias : ℤ) + 1) := by
  obtain ⟨-, n, hrem, hn, -⟩ := remainder_spec F a b hb
  -- the remainder is no larger than the dividend, nor than half the divisor
  have hbp : 0 < |valQ F b| := abs_pos.2 hb
  have hfac : (remainder F a b).toRat = (valQ F a / valQ F b - n) * valQ F b := by rw [hrem]; field_simp
  have hle2 : |(remainder F a b).toRat| ≤ |valQ F b| / 2 := by
    rw [hfac, abs_mul]; nlinarith
  have hle1 : |(remainder F a b).toRat| ≤ |valQ F a| := by
    have hxa : |valQ F a| = |valQ F a / valQ F b| * |valQ F b| := by rw [← abs_mul]; congr 1; field_simp
    rw [hfac, abs_mul, hxa]
    refine mul_le_mul_of_nonneg_right ?_ hbp.le
    by_cases h0 : n = 0
    · simp [h0]
    · have h1 : (1 : ℚ) ≤ |(n : ℚ)| := by
        have : 1 ≤ |n| := Int.one_le_abs h0
        exact_mod_cast this
      have h2 : |(n : ℚ)| ≤ |valQ F a / valQ F b - n| + |valQ F a / valQ F b| := by
        have := abs_sub_abs_le_abs_sub (n : ℚ) (valQ F a / valQ F b)
        rw [abs_sub_comm (n : ℚ)] at this
        linarith
      linarith
  have hrl : |(remainder F a b).toRat| < 2 ^ ((F.bias : ℤ) + 1) := lt_of_le_of_lt hle1 (abs_valQ_lt ha)
  -- a common unit
  have key : ∀ (K : ℤ) (e : ℤ) (M : ℕ), (remainder F a b).toRat = K * 2 ^ e → |(remainder F a b).toRat| ≤ (M : ℚ) * 2 ^ e →
      M < 2 ^ (F.FB + 1) → F.emin - F.FB ≤ e → ∃ (k : ℕ) (e : ℤ), 0 < k ∧ k < 2 ^ (F.FB + 1) ∧ F.emin - F.FB ≤ e ∧
        |(remainder F a b).toRat| = (k : ℚ) * 2 ^ e ∧ (k : ℝ) * 2 ^ e < 2 ^ ((F.bias : ℤ) + 1) := by
    intro K e M hK hM hM2 he
    have hKa : |(remainder F a b).toRat| = (K.natAbs : ℚ) * 2 ^ e := by
      rw [hK, abs_mul, abs_of_pos (show (0 : ℚ) < 2 ^ e by positivity), Nat.cast_natAbs, Int.cast_abs]
    have hKM : K.natAbs ≤ M := by
      rw [hKa] at hM
      exact_mod_cast le_of_mul_le_mul_right hM (by positivity)
    refine ⟨K.natAbs, e, ?_, by omega, he, hKa, ?_⟩
    · rcases Nat.eq_zero_or_pos K.natAbs with h | h
      · rw [h] at hKa; simp at hKa; exact absurd hKa hr
      · exact h
    · rw [hKa] at hrl
      have := (Rat.cast_lt (K := ℝ)).2 hrl
      push_cast at this ⊢
      exact this
  have hx := valQ_eq_mag F a
  have hy := valQ_eq_mag F b
  rcases le_or_gt (magExp F b) (magExp F a) with h | h
  · obtain ⟨d, hd⟩ : ∃ d : ℕ, magExp F a = magExp F b + d := ⟨(magExp F a - magExp F b).toNat, by omega⟩
    refine key ((if sign F a then -1 else 1) * (magSig F a * 2 ^ d) - n * ((if sign F b then -1 else 1) * magSig F b)) (magExp F b) (magSig F b)
      ?_ ?_ (magSig_lt F b) (le_magExp F b)
    · rw [hrem, hx, hy, hd, zpow_add₀ (by norm_num), zpow_natCast]
      push_cast
      split_ifs <;> ring
    · rw [← abs_valQ]; linarith
  · obtain ⟨d, hd⟩ : ∃ d : ℕ, magExp F b = magExp F a + d := ⟨(magExp F b - magExp F a).toNat, by omega⟩
    refine key ((if sign F a then -1 else 1) * magSig F a - n * ((if sign F b then -1 else 1) * (magSig F b * 2 ^ d))) (magExp F a) (magSig F a)
      ?_ ?_ (magSig_lt F a) (le_magExp F a)
    · rw [hrem, hx, hy, hd, zpow_add₀ (by norm_num), zpow_natCast]
      push_cast
      split_ifs <;> ring
    · rw [← abs_valQ]; exact hle1

end Sys2Proof.Machine
end

