-- ==== Sys2Proof/Laws/Exec.lean ====
section
/-!
SUPPORT. Laws/Exec.lean: one equation for each operation code: what `exec` does with a row, as the shared operation applied to the row's selectors; and the
encoding and decoding of a row. Later proofs cite these and never open `exec`, `decode` or `Instr.command`.
-/

namespace Sys2Proof.Machine

@[simp] theorem exec_add (n : Words) (s : State) : exec (Row.add n) s = addWords n s := by cases n <;> rfl
@[simp] theorem exec_sub (n : Words) (s : State) : exec (Row.sub n) s = subWords n s := by cases n <;> rfl
@[simp] theorem exec_cmpeq (n : Words) (s : State) : exec (Row.cmpeq n) s = compareWords (fun a b => a == b) n s := by cases n <;> rfl
@[simp] theorem exec_cmpne (n : Words) (s : State) : exec (Row.cmpne n) s = compareWords (fun a b => a != b) n s := by cases n <;> rfl
@[simp] theorem exec_cmplt (n : Words) (s : State) : exec (Row.cmplt n) s = compareWords (fun a b => decide (a < b)) n s := by cases n <;> rfl
@[simp] theorem exec_cmple (n : Words) (s : State) : exec (Row.cmple n) s = compareWords (fun a b => decide (a ≤ b)) n s := by cases n <;> rfl
@[simp] theorem exec_shl (n : Words) (s : State) : exec (Row.shl n) s = shlWords n s := by cases n <;> rfl
@[simp] theorem exec_shr (n : Words) (s : State) : exec (Row.shr n) s = shrWords n s := by cases n <;> rfl
@[simp] theorem exec_shrj (n : Words) (s : State) : exec (Row.shrj n) s = shrjWords n s := by cases n <;> rfl
@[simp] theorem exec_clz (n : Words) (s : State) : exec (Row.clz n) s = clzWords n s := by cases n <;> rfl
theorem exec_mul (n : Words) (i : Instr) (h : Row.mul n = some i) (s : State) : exec i s = mulWords n s := by
  cases n <;> cases h <;> rfl
@[simp] theorem exec_mul128x128 (s : State) : exec .mul128x128 s = mulSquare s := rfl
@[simp] theorem exec_divest128 (s : State) : exec .divest128 s = divEstimate Config.divestErr s := rfl
@[simp] theorem exec_divq128 (s : State) : exec .divq128 s = divQuotient s := rfl
@[simp] theorem exec_xsign (F : Fmt) (s : State) : exec (Row.xsign F) s = xsign F s := by cases F <;> rfl
@[simp] theorem exec_xexp (F : Fmt) (s : State) : exec (Row.xexp F) s = xexp F s := by cases F <;> rfl
@[simp] theorem exec_xsig (F : Fmt) (s : State) : exec (Row.xsig F) s = xsig F s := by cases F <;> rfl
@[simp] theorem exec_pack (F : Fmt) (s : State) : exec (Row.pack F) s = packOp F s := by cases F <;> rfl
@[simp] theorem exec_rpack (F : Fmt) (s : State) : exec (Row.rpack F) s = rpackOp F s := by cases F <;> rfl
@[simp] theorem exec_nrpack (F : Fmt) (s : State) : exec (Row.nrpack F) s = nrpackOp F s := by cases F <;> rfl
@[simp] theorem exec_rpacki (T : IntTy) (s : State) : exec (Row.rpacki T) s = rpackiOp T s := by cases T <;> rfl
@[simp] theorem exec_issnan (F : Fmt) (s : State) : exec (Row.issnan F) s = issnan nanPolicy F s := by cases F <;> rfl
@[simp] theorem exec_isqnan (F : Fmt) (s : State) : exec (Row.isqnan F) s = isqnan nanPolicy F s := by cases F <;> rfl
@[simp] theorem exec_propnan (F : Fmt) (s : State) : exec (Row.propnan F) s = propnan nanPolicy F s := by cases F <;> rfl
@[simp] theorem exec_propnan3 (F : Fmt) (infzero : Bool) (s : State) : exec (Row.propnan3 F infzero) s = propnan3 nanPolicy F infzero s := by cases F <;> rfl
@[simp] theorem exec_defnan (F : Fmt) (s : State) : exec (Row.defnan F) s = defnan nanPolicy F s := by cases F <;> rfl
@[simp] theorem exec_i2f (F : Fmt) (T : IntTy) (s : State) : exec (Row.i2f F T) s = i2fOp F T s := by cases F <;> cases T <;> rfl
@[simp] theorem exec_f2i (F : Fmt) (T : IntTy) (rz : Bool) (s : State) : exec (Row.f2i F T rz) s = f2iOp F T rz s := by cases F <;> cases T <;> rfl
theorem exec_f2f (F : Fmt) (F' : Fmt) (i : Instr) (h : Row.f2f F F' = some i) (s : State) : exec i s = f2fOp nanPolicy F F' s := by
  cases F <;> cases F' <;> cases h <;> rfl
@[simp] theorem exec_fadd (F : Fmt) (s : State) : exec (Row.fadd F) s = faddOp nanPolicy F s := by cases F <;> rfl
@[simp] theorem exec_fsub (F : Fmt) (s : State) : exec (Row.fsub F) s = fsubOp nanPolicy F s := by cases F <;> rfl
@[simp] theorem exec_fmul (F : Fmt) (s : State) : exec (Row.fmul F) s = fmulOp nanPolicy F s := by cases F <;> rfl
@[simp] theorem exec_fdiv (F : Fmt) (s : State) : exec (Row.fdiv F) s = fdivOp nanPolicy F s := by cases F <;> rfl
@[simp] theorem exec_frem (F : Fmt) (s : State) : exec (Row.frem F) s = fremOp nanPolicy F s := by cases F <;> rfl
@[simp] theorem exec_fma (F : Fmt) (negC negP negR halve : Bool) (s : State) : exec (Row.fma F negC negP negR halve) s = fmaOp nanPolicy F negC negP negR halve s := by cases F <;> rfl
@[simp] theorem exec_fsqrt (F : Fmt) (s : State) : exec (Row.fsqrt F) s = fsqrtOp nanPolicy F s := by cases F <;> rfl
@[simp] theorem exec_frint (F : Fmt) (s : State) : exec (Row.frint F) s = frintOp nanPolicy F s := by cases F <;> rfl
@[simp] theorem exec_fscalbn (F : Fmt) (s : State) : exec (Row.fscalbn F) s = fscalbnOp nanPolicy F s := by cases F <;> rfl
@[simp] theorem exec_feq (F : Fmt) (q : Bool) (s : State) : exec (Row.feq F q) s = feqOp nanPolicy F q s := by cases F <;> rfl
@[simp] theorem exec_fle (F : Fmt) (q : Bool) (s : State) : exec (Row.fle F q) s = fleOp nanPolicy F q s := by cases F <;> rfl
@[simp] theorem exec_flt (F : Fmt) (q : Bool) (s : State) : exec (Row.flt F q) s = fltOp nanPolicy F q s := by cases F <;> rfl
@[simp] theorem exec_funord (F : Fmt) (q : Bool) (s : State) : exec (Row.funord F q) s = funordOp nanPolicy F q s := by cases F <;> rfl
@[simp] theorem exec_fcmp (F : Fmt) (q : Bool) (s : State) : exec (Row.fcmp F q) s = fcmpOp nanPolicy F q s := by cases F <;> rfl
@[simp] theorem exec_fminnum (F : Fmt) (s : State) : exec (Row.fminnum F) s = minMaxOp nanPolicy true false F s := by cases F <;> rfl
@[simp] theorem exec_fmaxnum (F : Fmt) (s : State) : exec (Row.fmaxnum F) s = minMaxOp nanPolicy false false F s := by cases F <;> rfl
@[simp] theorem exec_fminnummag (F : Fmt) (s : State) : exec (Row.fminnummag F) s = minMaxOp nanPolicy true true F s := by cases F <;> rfl
@[simp] theorem exec_fmaxnummag (F : Fmt) (s : State) : exec (Row.fmaxnummag F) s = minMaxOp nanPolicy false true F s := by cases F <;> rfl
@[simp] theorem exec_rdctl (s : State) : exec .rdctl s = execRdctl s := rfl
@[simp] theorem exec_wrctl (s : State) : exec .wrctl s = execWrctl s := rfl
@[simp] theorem exec_rdflg (s : State) : exec .rdflg s = execRdflg s := rfl
@[simp] theorem exec_wrflg (s : State) : exec .wrflg s = execWrflg s := rfl

end Sys2Proof.Machine
end

