-- ==== Sys2Proof/Laws/State.lean ====
section
/-!
SUPPORT. Laws/State.lean: every field of State after every update of Machine/Ops.lean, so that no proof unfolds an update.
-/

namespace Sys2Proof.Machine

@[simp] theorem setflag_halt (m : Flags) (s : State) : (setflag m s).halt = s.halt := rfl
@[simp] theorem setflag_ctl (m : Flags) (s : State) : (setflag m s).ctl = s.ctl := rfl
@[simp] theorem setflag_flg (m : Flags) (s : State) : (setflag m s).flg = s.flg ||| m.setWidth 32 := rfl
@[simp] theorem setflag_request (m : Flags) (s : State) : (setflag m s).request = s.request := rfl
@[simp] theorem setflag_response (m : Flags) (s : State) : (setflag m s).response = s.response := rfl
@[simp] theorem setflag_inputs (m : Flags) (s : State) : (setflag m s).inputs = s.inputs := rfl
@[simp] theorem setflag_resets (m : Flags) (s : State) : (setflag m s).resets = s.resets := rfl
@[simp] theorem setflag_unitNo (m : Flags) (s : State) : (setflag m s).unitNo = s.unitNo := rfl

@[simp] theorem respond_halt (r : Wide) (x : Dword) (e : BitVec 2) (s : State) : (respond r x e s).halt = s.halt := rfl
@[simp] theorem respond_ctl (r : Wide) (x : Dword) (e : BitVec 2) (s : State) : (respond r x e s).ctl = s.ctl := rfl
@[simp] theorem respond_flg (r : Wide) (x : Dword) (e : BitVec 2) (s : State) : (respond r x e s).flg = s.flg := rfl
@[simp] theorem respond_request (r : Wide) (x : Dword) (e : BitVec 2) (s : State) : (respond r x e s).request = s.request := rfl
@[simp] theorem respond_response (r : Wide) (x : Dword) (e : BitVec 2) (s : State) : (respond r x e s).response = some { r := r, x := x, err := e } := rfl
@[simp] theorem respond_inputs (r : Wide) (x : Dword) (e : BitVec 2) (s : State) : (respond r x e s).inputs = s.inputs := rfl
@[simp] theorem respond_resets (r : Wide) (x : Dword) (e : BitVec 2) (s : State) : (respond r x e s).resets = s.resets := rfl
@[simp] theorem respond_unitNo (r : Wide) (x : Dword) (e : BitVec 2) (s : State) : (respond r x e s).unitNo = s.unitNo := rfl

@[simp] theorem answer_halt (r : Wide) (x : Dword) (m : Flags) (s : State) : (answer r x m s).halt = s.halt := rfl
@[simp] theorem answer_ctl (r : Wide) (x : Dword) (m : Flags) (s : State) : (answer r x m s).ctl = s.ctl := rfl
@[simp] theorem answer_flg (r : Wide) (x : Dword) (m : Flags) (s : State) : (answer r x m s).flg = s.flg ||| m.setWidth 32 := rfl
@[simp] theorem answer_request (r : Wide) (x : Dword) (m : Flags) (s : State) : (answer r x m s).request = s.request := rfl
@[simp] theorem answer_response (r : Wide) (x : Dword) (m : Flags) (s : State) : (answer r x m s).response = some { r := r, x := x, err := 0 } := rfl
@[simp] theorem answer_inputs (r : Wide) (x : Dword) (m : Flags) (s : State) : (answer r x m s).inputs = s.inputs := rfl
@[simp] theorem answer_resets (r : Wide) (x : Dword) (m : Flags) (s : State) : (answer r x m s).resets = s.resets := rfl
@[simp] theorem answer_unitNo (r : Wide) (x : Dword) (m : Flags) (s : State) : (answer r x m s).unitNo = s.unitNo := rfl

@[simp] theorem answerHalted_halt (s : State) : (answerHalted s).halt = s.halt := rfl
@[simp] theorem answerHalted_ctl (s : State) : (answerHalted s).ctl = s.ctl := rfl
@[simp] theorem answerHalted_flg (s : State) : (answerHalted s).flg = s.flg := rfl
@[simp] theorem answerHalted_request (s : State) : (answerHalted s).request = s.request := rfl
@[simp] theorem answerHalted_response (s : State) : (answerHalted s).response = some { r := 0, x := 0, err := 2 } := rfl
@[simp] theorem answerHalted_inputs (s : State) : (answerHalted s).inputs = s.inputs := rfl
@[simp] theorem answerHalted_resets (s : State) : (answerHalted s).resets = s.resets := rfl
@[simp] theorem answerHalted_unitNo (s : State) : (answerHalted s).unitNo = s.unitNo := rfl

@[simp] theorem takeFault_illegal_halt (c : IllegalCause) (s : State) : (takeFault (.illegalCommand c) s).halt = s.halt := rfl
@[simp] theorem takeFault_illegal_ctl (c : IllegalCause) (s : State) : (takeFault (.illegalCommand c) s).ctl = s.ctl := rfl
@[simp] theorem takeFault_illegal_flg (c : IllegalCause) (s : State) : (takeFault (.illegalCommand c) s).flg = s.flg := rfl
@[simp] theorem takeFault_illegal_request (c : IllegalCause) (s : State) : (takeFault (.illegalCommand c) s).request = s.request := rfl
@[simp] theorem takeFault_illegal_response (c : IllegalCause) (s : State) : (takeFault (.illegalCommand c) s).response = some { r := 0, x := 0, err := 1 } := rfl
@[simp] theorem takeFault_illegal_inputs (c : IllegalCause) (s : State) : (takeFault (.illegalCommand c) s).inputs = s.inputs := rfl
@[simp] theorem takeFault_illegal_resets (c : IllegalCause) (s : State) : (takeFault (.illegalCommand c) s).resets = s.resets := rfl
@[simp] theorem takeFault_illegal_unitNo (c : IllegalCause) (s : State) : (takeFault (.illegalCommand c) s).unitNo = s.unitNo := rfl

@[simp] theorem takeFault_contract_halt (c : ContractCause) (s : State) : (takeFault (.contractViolation c) s).halt = true := rfl
@[simp] theorem takeFault_contract_ctl (c : ContractCause) (s : State) : (takeFault (.contractViolation c) s).ctl = s.ctl := rfl
@[simp] theorem takeFault_contract_flg (c : ContractCause) (s : State) : (takeFault (.contractViolation c) s).flg = s.flg := rfl
@[simp] theorem takeFault_contract_request (c : ContractCause) (s : State) : (takeFault (.contractViolation c) s).request = s.request := rfl
@[simp] theorem takeFault_contract_response (c : ContractCause) (s : State) : (takeFault (.contractViolation c) s).response = some { r := 0, x := 0, err := 2 } := rfl
@[simp] theorem takeFault_contract_inputs (c : ContractCause) (s : State) : (takeFault (.contractViolation c) s).inputs = s.inputs := rfl
@[simp] theorem takeFault_contract_resets (c : ContractCause) (s : State) : (takeFault (.contractViolation c) s).resets = s.resets := rfl
@[simp] theorem takeFault_contract_unitNo (c : ContractCause) (s : State) : (takeFault (.contractViolation c) s).unitNo = s.unitNo := rfl

@[simp] theorem accept_halt (q : Request) (rest : List Input) (s : State) : (accept q rest s).halt = s.halt := rfl
@[simp] theorem accept_ctl (q : Request) (rest : List Input) (s : State) : (accept q rest s).ctl = s.ctl := rfl
@[simp] theorem accept_flg (q : Request) (rest : List Input) (s : State) : (accept q rest s).flg = s.flg := rfl
@[simp] theorem accept_request (q : Request) (rest : List Input) (s : State) : (accept q rest s).request = q := rfl
@[simp] theorem accept_response (q : Request) (rest : List Input) (s : State) : (accept q rest s).response = none := rfl
@[simp] theorem accept_inputs (q : Request) (rest : List Input) (s : State) : (accept q rest s).inputs = rest := rfl
@[simp] theorem accept_resets (q : Request) (rest : List Input) (s : State) : (accept q rest s).resets = s.resets := rfl
@[simp] theorem accept_unitNo (q : Request) (rest : List Input) (s : State) : (accept q rest s).unitNo = s.unitNo := rfl

@[simp] theorem quiet_halt (s : State) : (quiet s).halt = s.halt := rfl
@[simp] theorem quiet_ctl (s : State) : (quiet s).ctl = s.ctl := rfl
@[simp] theorem quiet_flg (s : State) : (quiet s).flg = s.flg := rfl
@[simp] theorem quiet_request (s : State) : (quiet s).request = Request.absent := rfl
@[simp] theorem quiet_response (s : State) : (quiet s).response = none := rfl
@[simp] theorem quiet_inputs (s : State) : (quiet s).inputs = s.inputs := rfl
@[simp] theorem quiet_resets (s : State) : (quiet s).resets = s.resets := rfl
@[simp] theorem quiet_unitNo (s : State) : (quiet s).unitNo = s.unitNo := rfl

@[simp] theorem writeCtl_halt (v : Word) (s : State) : (writeCtl v s).halt = s.halt := rfl
@[simp] theorem writeCtl_ctl (v : Word) (s : State) : (writeCtl v s).ctl = (v.setWidth 8).setWidth 32 := rfl
@[simp] theorem writeCtl_flg (v : Word) (s : State) : (writeCtl v s).flg = s.flg := rfl
@[simp] theorem writeCtl_request (v : Word) (s : State) : (writeCtl v s).request = s.request := rfl
@[simp] theorem writeCtl_response (v : Word) (s : State) : (writeCtl v s).response = s.response := rfl
@[simp] theorem writeCtl_inputs (v : Word) (s : State) : (writeCtl v s).inputs = s.inputs := rfl
@[simp] theorem writeCtl_resets (v : Word) (s : State) : (writeCtl v s).resets = s.resets := rfl
@[simp] theorem writeCtl_unitNo (v : Word) (s : State) : (writeCtl v s).unitNo = s.unitNo := rfl

@[simp] theorem writeFlg_halt (v : Word) (s : State) : (writeFlg v s).halt = s.halt := rfl
@[simp] theorem writeFlg_ctl (v : Word) (s : State) : (writeFlg v s).ctl = s.ctl := rfl
@[simp] theorem writeFlg_flg (v : Word) (s : State) : (writeFlg v s).flg = (v.setWidth 7).setWidth 32 := rfl
@[simp] theorem writeFlg_request (v : Word) (s : State) : (writeFlg v s).request = s.request := rfl
@[simp] theorem writeFlg_response (v : Word) (s : State) : (writeFlg v s).response = s.response := rfl
@[simp] theorem writeFlg_inputs (v : Word) (s : State) : (writeFlg v s).inputs = s.inputs := rfl
@[simp] theorem writeFlg_resets (v : Word) (s : State) : (writeFlg v s).resets = s.resets := rfl
@[simp] theorem writeFlg_unitNo (v : Word) (s : State) : (writeFlg v s).unitNo = s.unitNo := rfl

@[simp] theorem resetTo_halt (c : BitVec 8) (f : BitVec 7) (rest : List Input) (s : State) : (resetTo c f rest s).halt = false := rfl
@[simp] theorem resetTo_ctl (c : BitVec 8) (f : BitVec 7) (rest : List Input) (s : State) : (resetTo c f rest s).ctl = c.setWidth 32 := rfl
@[simp] theorem resetTo_flg (c : BitVec 8) (f : BitVec 7) (rest : List Input) (s : State) : (resetTo c f rest s).flg = f.setWidth 32 := rfl
@[simp] theorem resetTo_request (c : BitVec 8) (f : BitVec 7) (rest : List Input) (s : State) : (resetTo c f rest s).request = Request.absent := rfl
@[simp] theorem resetTo_response (c : BitVec 8) (f : BitVec 7) (rest : List Input) (s : State) : (resetTo c f rest s).response = none := rfl
@[simp] theorem resetTo_inputs (c : BitVec 8) (f : BitVec 7) (rest : List Input) (s : State) : (resetTo c f rest s).inputs = rest := rfl
@[simp] theorem resetTo_resets (c : BitVec 8) (f : BitVec 7) (rest : List Input) (s : State) : (resetTo c f rest s).resets = s.resets := rfl
@[simp] theorem resetTo_unitNo (c : BitVec 8) (f : BitVec 7) (rest : List Input) (s : State) : (resetTo c f rest s).unitNo = s.unitNo := rfl

@[simp] theorem takeReset_halt (rest : List Input) (s : State) : (takeReset rest s).halt = false := rfl
@[simp] theorem takeReset_ctl (rest : List Input) (s : State) : (takeReset rest s).ctl = (Config.resetCtl s.unitNo s.resets).setWidth 32 := rfl
@[simp] theorem takeReset_flg (rest : List Input) (s : State) : (takeReset rest s).flg = (Config.resetFlg s.unitNo s.resets).setWidth 32 := rfl
@[simp] theorem takeReset_request (rest : List Input) (s : State) : (takeReset rest s).request = Request.absent := rfl
@[simp] theorem takeReset_response (rest : List Input) (s : State) : (takeReset rest s).response = none := rfl
@[simp] theorem takeReset_inputs (rest : List Input) (s : State) : (takeReset rest s).inputs = rest := rfl
@[simp] theorem takeReset_resets (rest : List Input) (s : State) : (takeReset rest s).resets = s.resets + 1 := rfl
@[simp] theorem takeReset_unitNo (rest : List Input) (s : State) : (takeReset rest s).unitNo = s.unitNo := rfl

end Sys2Proof.Machine
end

