-- ==== Sys2Proof/Laws/Outcome.lean ====
section
/-!
SUPPORT. Laws/Outcome.lean: everything an instruction and a step can do, said once: an instruction answers or violates its contract; a step takes the
next input in one of five ways.
-/

namespace Sys2Proof.Machine

/-- The end of a rule: it answers with nothing on `X`, or its fault is taken. -/
theorem complete_cases (v : Except ContractCause (Flagged Wide)) (s : State) :
    (∃ r m, complete v s = .next (answer r 0 m s)) ∨ ∃ c, complete v s = .next (takeFault (.contractViolation c) s) := by
  cases v with
  | error c => exact .inr ⟨c, rfl⟩
  | ok v => exact .inl ⟨v.val, v.flags, rfl⟩

theorem shape_of_complete {i : Instr} {s : State} (v : Except ContractCause (Flagged Wide)) (h : exec i s = complete v s) :
    (∃ r x m, Answers i s r x m) ∨ Violates i s := by
  rcases complete_cases v s with ⟨r, m, hv⟩ | ⟨c, hv⟩
  · exact .inl ⟨r, 0, m, h.trans hv⟩
  · exact .inr (h.trans hv)

theorem shape_of_answer {i : Instr} {s : State} {r : Wide} {x : Dword} {m : Flags} (h : exec i s = .next (answer r x m s)) :
    (∃ r x m, Answers i s r x m) ∨ Violates i s := .inl ⟨r, x, m, h⟩

/-- The two divides fault before they compute. -/
theorem divEstimate_cases (err : BitVec 128 → BitVec 64 → Fin 3) (s : State) :
    (∃ c, divideFault (bitsA 128 s) (bitsB 64 s) = some c ∧ divEstimate err s = .next (takeFault (.contractViolation c) s)) ∨
    (divideFault (bitsA 128 s) (bitsB 64 s) = none ∧
      divEstimate err s = .next (answer (outBits 64 (bitsA 128 s / bitsB 64 s - divestErr err (bitsA 128 s) (bitsB 64 s))) 0 0 s)) := by
  unfold divEstimate
  rcases h : divideFault (bitsA 128 s) (bitsB 64 s) with _ | c
  · right; simp [h]
  · left; exact ⟨c, rfl, by simp [h]⟩

theorem divQuotient_cases (s : State) :
    (∃ c, divideFault (bitsA 128 s) (bitsB 64 s) = some c ∧ divQuotient s = .next (takeFault (.contractViolation c) s)) ∨
    (divideFault (bitsA 128 s) (bitsB 64 s) = none ∧
      divQuotient s = .next (answer (outBits 64 (bitsA 128 s / bitsB 64 s)) (BitVec.ofNat 64 (bitsA 128 s % bitsB 64 s)) 0 s)) := by
  unfold divQuotient
  rcases h : divideFault (bitsA 128 s) (bitsB 64 s) with _ | c
  · right; simp [h]
  · left; exact ⟨c, rfl, by simp [h]⟩

/-- EVERYTHING AN INSTRUCTION CAN DO, the two register writes apart: it answers, or it violates its contract. -/
theorem exec_cases (i : Instr) (hc : i ≠ .wrctl) (hf : i ≠ .wrflg) (s : State) : (∃ r x m, Answers i s r x m) ∨ Violates i s := by
  cases i <;>
    first
    | exact absurd rfl hc
    | exact absurd rfl hf
    | exact shape_of_complete _ rfl
    | exact shape_of_answer rfl
    | exact (divEstimate_cases _ s).elim (fun ⟨_, _, h⟩ => .inr h) (fun ⟨_, h⟩ => shape_of_answer h)
    | exact (divQuotient_cases s).elim (fun ⟨_, _, h⟩ => .inr h) (fun ⟨_, h⟩ => shape_of_answer h)

/-- EVERYTHING A STEP CAN DO, whatever the meanings `run` of the instructions. -/
theorem stepBy_cases (run : Instr → State → Out) (s : State) :
    (s.inputs = [] ∧ stepBy run s = .next (quiet s)) ∨
    (∃ a rest, s.inputs = .reset a :: rest ∧ stepBy run s = .next (takeReset rest s)) ∨
    (∃ q q' rest, s.inputs = .overlap q q' :: rest ∧ stepBy run s = .refused .overlappingRequests) ∨
    (∃ q rest, s.inputs = .request q :: rest ∧ s.halt = true ∧ stepBy run s = .next (answerHalted (accept q rest s))) ∨
    (∃ q rest c, s.inputs = .request q :: rest ∧ s.halt = false ∧ decode q.cmd = .error c ∧
      stepBy run s = .next (takeFault (.illegalCommand c) (accept q rest s))) ∨
    (∃ q rest i, s.inputs = .request q :: rest ∧ s.halt = false ∧ decode q.cmd = .ok i ∧ stepBy run s = run i (accept q rest s)) := by
  rcases h : s.inputs with _ | ⟨_ | _ | _, rest⟩
  · exact .inl ⟨rfl, by rw [stepBy, h]⟩
  · rename_i q
    right; right; right
    rcases hh : s.halt with _ | _
    · right
      rcases hd : decode q.cmd with c | i
      · left; exact ⟨q, rest, c, rfl, rfl, hd, by rw [stepBy, h]; simp [answerRequest, hh, hd]⟩
      · right; exact ⟨q, rest, i, rfl, rfl, hd, by rw [stepBy, h]; simp [answerRequest, hh, hd]⟩
    · left; exact ⟨q, rest, rfl, rfl, by rw [stepBy, h]; simp [answerRequest, hh]⟩
  · right; left; exact ⟨_, rest, rfl, by rw [stepBy, h]⟩
  · right; right; left; exact ⟨_, _, rest, rfl, by rw [stepBy, h]⟩

/-- EVERYTHING A STEP CAN DO. -/
theorem step_cases (s : State) :
    (s.inputs = [] ∧ step s = .next (quiet s)) ∨
    (∃ a rest, s.inputs = .reset a :: rest ∧ step s = .next (takeReset rest s)) ∨
    (∃ q q' rest, s.inputs = .overlap q q' :: rest ∧ step s = .refused .overlappingRequests) ∨
    (∃ q rest, s.inputs = .request q :: rest ∧ s.halt = true ∧ step s = .next (answerHalted (accept q rest s))) ∨
    (∃ q rest c, s.inputs = .request q :: rest ∧ s.halt = false ∧ decode q.cmd = .error c ∧
      step s = .next (takeFault (.illegalCommand c) (accept q rest s))) ∨
    (∃ q rest i, s.inputs = .request q :: rest ∧ s.halt = false ∧ decode q.cmd = .ok i ∧ step s = exec i (accept q rest s)) :=
  stepBy_cases exec s

/-- Where a rule ends in the engine's outcome, the instruction delivers it. -/
theorem delivers_of_completePat {i : Instr} {s : State} {F : Fmt} {m : Flags} {v : Except ContractCause (Flagged Pat)}
    (h : exec i s = completePat F (v.map (Flagged.raise m)) s) : Delivers i s F m v := by
  cases v with
  | error c => exact h
  | ok v => exact h

theorem delivers_of_completePat_zero {i : Instr} {s : State} {F : Fmt} {v : Except ContractCause (Flagged Pat)}
    (h : exec i s = completePat F v s) : Delivers i s F 0 v := by
  cases v with
  | error c => exact h
  | ok v =>
    refine h.trans ?_
    show _ = Host.Outcome.next (answer (outPat F v.val) 0 (0 ||| v.flags) s)
    simp [completePat, complete, Except.map, Flagged.map]

end Sys2Proof.Machine
end

