-- ==== Sys2Proof/Laws/Params.lean ====
section
/-!
SUPPORT. Laws/Params.lean: the machine built with the spec's defaults is the machine; which parameters an instruction depends on (spec/70_reset_and_hazards.md
R385).
-/

namespace Sys2Proof.Machine

open Sys2Proof.Config (Params)

theorem execWith_default (i : Instr) (s : State) : execWith defaultParams i s = exec i s := by cases i <;> rfl

@[simp] theorem execWith_defaultParams : execWith defaultParams = exec := funext fun i => funext fun s => execWith_default i s

@[simp] theorem stepWith_defaultParams : stepWith defaultParams = step := by
  funext s
  simp only [stepWith, step, execWith_defaultParams]

@[simp] theorem coreWith_defaultParams : coreWith defaultParams =
    { State := State, Fault := Fault, Refusal := Refusal, step := step, reset := State.reset } := by
  simp only [coreWith, stepWith_defaultParams]

/-- The response depends on `DIVEST_ERR` for `DIVEST128` only, and on the NaN policy otherwise (R385). -/
theorem execWith_eq_of_nanPolicy {P Q : Params} (h : P.nanPolicy = Q.nanPolicy) {i : Instr} (hi : i ≠ .divest128) (s : State) :
    execWith P i s = execWith Q i s := by
  obtain ⟨p⟩ := P
  obtain ⟨q⟩ := Q
  obtain rfl : p = q := h
  cases i <;> first | rfl | exact absurd rfl hi

end Sys2Proof.Machine
end

