-- ==== Sys2Proof/Laws/PerInstr.lean ====
section
/-!
SUPPORT. Laws/PerInstr.lean: for every instruction, one constructor at a time: its command word's fields pass the five checks of
spec/30_encoding.md R76.
-/

namespace Sys2Proof.Laws.Legal

/-- The instruction's command word is a legal one. -/
def Statement (i : Instr) : Prop := i.wellFormed = true

theorem add64 : Statement (.add64) := rfl
theorem add128 : Statement (.add128) := rfl
theorem add192 : Statement (.add192) := rfl
theorem add256 : Statement (.add256) := rfl
theorem sub64 : Statement (.sub64) := rfl
theorem sub128 : Statement (.sub128) := rfl
theorem sub192 : Statement (.sub192) := rfl
theorem sub256 : Statement (.sub256) := rfl
theorem cmpeq64 : Statement (.cmpeq64) := rfl
theorem cmpeq128 : Statement (.cmpeq128) := rfl
theorem cmpeq192 : Statement (.cmpeq192) := rfl
theorem cmpeq256 : Statement (.cmpeq256) := rfl
theorem cmpne64 : Statement (.cmpne64) := rfl
theorem cmpne128 : Statement (.cmpne128) := rfl
theorem cmpne192 : Statement (.cmpne192) := rfl
theorem cmpne256 : Statement (.cmpne256) := rfl
theorem cmplt64 : Statement (.cmplt64) := rfl
theorem cmplt128 : Statement (.cmplt128) := rfl
theorem cmplt192 : Statement (.cmplt192) := rfl
theorem cmplt256 : Statement (.cmplt256) := rfl
theorem cmple64 : Statement (.cmple64) := rfl
theorem cmple128 : Statement (.cmple128) := rfl
theorem cmple192 : Statement (.cmple192) := rfl
theorem cmple256 : Statement (.cmple256) := rfl
theorem shl64 : Statement (.shl64) := rfl
theorem shl128 : Statement (.shl128) := rfl
theorem shl192 : Statement (.shl192) := rfl
theorem shl256 : Statement (.shl256) := rfl
theorem shr64 : Statement (.shr64) := rfl
theorem shr128 : Statement (.shr128) := rfl
theorem shr192 : Statement (.shr192) := rfl
theorem shr256 : Statement (.shr256) := rfl
theorem shrj64 : Statement (.shrj64) := rfl
theorem shrj128 : Statement (.shrj128) := rfl
theorem shrj192 : Statement (.shrj192) := rfl
theorem shrj256 : Statement (.shrj256) := rfl
theorem clz64 : Statement (.clz64) := rfl
theorem clz128 : Statement (.clz128) := rfl
theorem clz192 : Statement (.clz192) := rfl
theorem clz256 : Statement (.clz256) := rfl
theorem mul64x64 : Statement (.mul64x64) := rfl
theorem mul128x64 : Statement (.mul128x64) := rfl
theorem mul192x64 : Statement (.mul192x64) := rfl
theorem mul128x128 : Statement (.mul128x128) := rfl
theorem divest128 : Statement (.divest128) := rfl
theorem divq128 : Statement (.divq128) := rfl
theorem xsignF16 : Statement (.xsignF16) := rfl
theorem xsignF32 : Statement (.xsignF32) := rfl
theorem xsignF64 : Statement (.xsignF64) := rfl
theorem xsignF80 : Statement (.xsignF80) := rfl
theorem xsignF128 : Statement (.xsignF128) := rfl
theorem xexpF16 : Statement (.xexpF16) := rfl
theorem xexpF32 : Statement (.xexpF32) := rfl
theorem xexpF64 : Statement (.xexpF64) := rfl
theorem xexpF80 : Statement (.xexpF80) := rfl
theorem xexpF128 : Statement (.xexpF128) := rfl
theorem xsigF16 : Statement (.xsigF16) := rfl
theorem xsigF32 : Statement (.xsigF32) := rfl
theorem xsigF64 : Statement (.xsigF64) := rfl
theorem xsigF80 : Statement (.xsigF80) := rfl
theorem xsigF128 : Statement (.xsigF128) := rfl
theorem packF16 : Statement (.packF16) := rfl
theorem packF32 : Statement (.packF32) := rfl
theorem packF64 : Statement (.packF64) := rfl
theorem packF80 : Statement (.packF80) := rfl
theorem packF128 : Statement (.packF128) := rfl
theorem rpackF16 : Statement (.rpackF16) := rfl
theorem rpackF32 : Statement (.rpackF32) := rfl
theorem rpackF64 : Statement (.rpackF64) := rfl
theorem rpackF80 : Statement (.rpackF80) := rfl
theorem rpackF128 : Statement (.rpackF128) := rfl
theorem nrpackF16 : Statement (.nrpackF16) := rfl
theorem nrpackF32 : Statement (.nrpackF32) := rfl
theorem nrpackF64 : Statement (.nrpackF64) := rfl
theorem nrpackF80 : Statement (.nrpackF80) := rfl
theorem nrpackF128 : Statement (.nrpackF128) := rfl
theorem rpackiI32 : Statement (.rpackiI32) := rfl
theorem rpackiI64 : Statement (.rpackiI64) := rfl
theorem rpackiU32 : Statement (.rpackiU32) := rfl
theorem rpackiU64 : Statement (.rpackiU64) := rfl
theorem issnanF16 : Statement (.issnanF16) := rfl
theorem issnanF32 : Statement (.issnanF32) := rfl
theorem issnanF64 : Statement (.issnanF64) := rfl
theorem issnanF80 : Statement (.issnanF80) := rfl
theorem issnanF128 : Statement (.issnanF128) := rfl
theorem isqnanF16 : Statement (.isqnanF16) := rfl
theorem isqnanF32 : Statement (.isqnanF32) := rfl
theorem isqnanF64 : Statement (.isqnanF64) := rfl
theorem isqnanF80 : Statement (.isqnanF80) := rfl
theorem isqnanF128 : Statement (.isqnanF128) := rfl
theorem propnanF16 : Statement (.propnanF16) := rfl
theorem propnanF32 : Statement (.propnanF32) := rfl
theorem propnanF64 : Statement (.propnanF64) := rfl
theorem propnanF80 : Statement (.propnanF80) := rfl
theorem propnanF128 : Statement (.propnanF128) := rfl
theorem propnan3F16 (infzero : Bool) : Statement (.propnan3F16 infzero) := by cases infzero <;> rfl
theorem propnan3F32 (infzero : Bool) : Statement (.propnan3F32 infzero) := by cases infzero <;> rfl
theorem propnan3F64 (infzero : Bool) : Statement (.propnan3F64 infzero) := by cases infzero <;> rfl
theorem propnan3F80 (infzero : Bool) : Statement (.propnan3F80 infzero) := by cases infzero <;> rfl
theorem propnan3F128 (infzero : Bool) : Statement (.propnan3F128 infzero) := by cases infzero <;> rfl
theorem defnanF16 : Statement (.defnanF16) := rfl
theorem defnanF32 : Statement (.defnanF32) := rfl
theorem defnanF64 : Statement (.defnanF64) := rfl
theorem defnanF80 : Statement (.defnanF80) := rfl
theorem defnanF128 : Statement (.defnanF128) := rfl
theorem i2fF16I32 : Statement (.i2fF16I32) := rfl
theorem i2fF16I64 : Statement (.i2fF16I64) := rfl
theorem i2fF16U32 : Statement (.i2fF16U32) := rfl
theorem i2fF16U64 : Statement (.i2fF16U64) := rfl
theorem i2fF32I32 : Statement (.i2fF32I32) := rfl
theorem i2fF32I64 : Statement (.i2fF32I64) := rfl
theorem i2fF32U32 : Statement (.i2fF32U32) := rfl
theorem i2fF32U64 : Statement (.i2fF32U64) := rfl
theorem i2fF64I32 : Statement (.i2fF64I32) := rfl
theorem i2fF64I64 : Statement (.i2fF64I64) := rfl
theorem i2fF64U32 : Statement (.i2fF64U32) := rfl
theorem i2fF64U64 : Statement (.i2fF64U64) := rfl
theorem i2fF80I32 : Statement (.i2fF80I32) := rfl
theorem i2fF80I64 : Statement (.i2fF80I64) := rfl
theorem i2fF80U32 : Statement (.i2fF80U32) := rfl
theorem i2fF80U64 : Statement (.i2fF80U64) := rfl
theorem i2fF128I32 : Statement (.i2fF128I32) := rfl
theorem i2fF128I64 : Statement (.i2fF128I64) := rfl
theorem i2fF128U32 : Statement (.i2fF128U32) := rfl
theorem i2fF128U64 : Statement (.i2fF128U64) := rfl
theorem f2iF16I32 (rz : Bool) : Statement (.f2iF16I32 rz) := by cases rz <;> rfl
theorem f2iF16I64 (rz : Bool) : Statement (.f2iF16I64 rz) := by cases rz <;> rfl
theorem f2iF16U32 (rz : Bool) : Statement (.f2iF16U32 rz) := by cases rz <;> rfl
theorem f2iF16U64 (rz : Bool) : Statement (.f2iF16U64 rz) := by cases rz <;> rfl
theorem f2iF32I32 (rz : Bool) : Statement (.f2iF32I32 rz) := by cases rz <;> rfl
theorem f2iF32I64 (rz : Bool) : Statement (.f2iF32I64 rz) := by cases rz <;> rfl
theorem f2iF32U32 (rz : Bool) : Statement (.f2iF32U32 rz) := by cases rz <;> rfl
theorem f2iF32U64 (rz : Bool) : Statement (.f2iF32U64 rz) := by cases rz <;> rfl
theorem f2iF64I32 (rz : Bool) : Statement (.f2iF64I32 rz) := by cases rz <;> rfl
theorem f2iF64I64 (rz : Bool) : Statement (.f2iF64I64 rz) := by cases rz <;> rfl
theorem f2iF64U32 (rz : Bool) : Statement (.f2iF64U32 rz) := by cases rz <;> rfl
theorem f2iF64U64 (rz : Bool) : Statement (.f2iF64U64 rz) := by cases rz <;> rfl
theorem f2iF80I32 (rz : Bool) : Statement (.f2iF80I32 rz) := by cases rz <;> rfl
theorem f2iF80I64 (rz : Bool) : Statement (.f2iF80I64 rz) := by cases rz <;> rfl
theorem f2iF80U32 (rz : Bool) : Statement (.f2iF80U32 rz) := by cases rz <;> rfl
theorem f2iF80U64 (rz : Bool) : Statement (.f2iF80U64 rz) := by cases rz <;> rfl
theorem f2iF128I32 (rz : Bool) : Statement (.f2iF128I32 rz) := by cases rz <;> rfl
theorem f2iF128I64 (rz : Bool) : Statement (.f2iF128I64 rz) := by cases rz <;> rfl
theorem f2iF128U32 (rz : Bool) : Statement (.f2iF128U32 rz) := by cases rz <;> rfl
theorem f2iF128U64 (rz : Bool) : Statement (.f2iF128U64 rz) := by cases rz <;> rfl
theorem f2fF16F32 : Statement (.f2fF16F32) := rfl
theorem f2fF16F64 : Statement (.f2fF16F64) := rfl
theorem f2fF16F80 : Statement (.f2fF16F80) := rfl
theorem f2fF16F128 : Statement (.f2fF16F128) := rfl
theorem f2fF32F16 : Statement (.f2fF32F16) := rfl
theorem f2fF32F64 : Statement (.f2fF32F64) := rfl
theorem f2fF32F80 : Statement (.f2fF32F80) := rfl
theorem f2fF32F128 : Statement (.f2fF32F128) := rfl
theorem f2fF64F16 : Statement (.f2fF64F16) := rfl
theorem f2fF64F32 : Statement (.f2fF64F32) := rfl
theorem f2fF64F80 : Statement (.f2fF64F80) := rfl
theorem f2fF64F128 : Statement (.f2fF64F128) := rfl
theorem f2fF80F16 : Statement (.f2fF80F16) := rfl
theorem f2fF80F32 : Statement (.f2fF80F32) := rfl
theorem f2fF80F64 : Statement (.f2fF80F64) := rfl
theorem f2fF80F128 : Statement (.f2fF80F128) := rfl
theorem f2fF128F16 : Statement (.f2fF128F16) := rfl
theorem f2fF128F32 : Statement (.f2fF128F32) := rfl
theorem f2fF128F64 : Statement (.f2fF128F64) := rfl
theorem f2fF128F80 : Statement (.f2fF128F80) := rfl
theorem faddF16 : Statement (.faddF16) := rfl
theorem faddF32 : Statement (.faddF32) := rfl
theorem faddF64 : Statement (.faddF64) := rfl
theorem faddF80 : Statement (.faddF80) := rfl
theorem faddF128 : Statement (.faddF128) := rfl
theorem fsubF16 : Statement (.fsubF16) := rfl
theorem fsubF32 : Statement (.fsubF32) := rfl
theorem fsubF64 : Statement (.fsubF64) := rfl
theorem fsubF80 : Statement (.fsubF80) := rfl
theorem fsubF128 : Statement (.fsubF128) := rfl
theorem fmulF16 : Statement (.fmulF16) := rfl
theorem fmulF32 : Statement (.fmulF32) := rfl
theorem fmulF64 : Statement (.fmulF64) := rfl
theorem fmulF80 : Statement (.fmulF80) := rfl
theorem fmulF128 : Statement (.fmulF128) := rfl
theorem fdivF16 : Statement (.fdivF16) := rfl
theorem fdivF32 : Statement (.fdivF32) := rfl
theorem fdivF64 : Statement (.fdivF64) := rfl
theorem fdivF80 : Statement (.fdivF80) := rfl
theorem fdivF128 : Statement (.fdivF128) := rfl
theorem fremF16 : Statement (.fremF16) := rfl
theorem fremF32 : Statement (.fremF32) := rfl
theorem fremF64 : Statement (.fremF64) := rfl
theorem fremF80 : Statement (.fremF80) := rfl
theorem fremF128 : Statement (.fremF128) := rfl
theorem fmaF16 (negC negP negR halve : Bool) : Statement (.fmaF16 negC negP negR halve) := by cases negC <;> cases negP <;> cases negR <;> cases halve <;> rfl
theorem fmaF32 (negC negP negR halve : Bool) : Statement (.fmaF32 negC negP negR halve) := by cases negC <;> cases negP <;> cases negR <;> cases halve <;> rfl
theorem fmaF64 (negC negP negR halve : Bool) : Statement (.fmaF64 negC negP negR halve) := by cases negC <;> cases negP <;> cases negR <;> cases halve <;> rfl
theorem fmaF80 (negC negP negR halve : Bool) : Statement (.fmaF80 negC negP negR halve) := by cases negC <;> cases negP <;> cases negR <;> cases halve <;> rfl
theorem fmaF128 (negC negP negR halve : Bool) : Statement (.fmaF128 negC negP negR halve) := by cases negC <;> cases negP <;> cases negR <;> cases halve <;> rfl
theorem fsqrtF16 : Statement (.fsqrtF16) := rfl
theorem fsqrtF32 : Statement (.fsqrtF32) := rfl
theorem fsqrtF64 : Statement (.fsqrtF64) := rfl
theorem fsqrtF80 : Statement (.fsqrtF80) := rfl
theorem fsqrtF128 : Statement (.fsqrtF128) := rfl
theorem frintF16 : Statement (.frintF16) := rfl
theorem frintF32 : Statement (.frintF32) := rfl
theorem frintF64 : Statement (.frintF64) := rfl
theorem frintF80 : Statement (.frintF80) := rfl
theorem frintF128 : Statement (.frintF128) := rfl
theorem fscalbnF16 : Statement (.fscalbnF16) := rfl
theorem fscalbnF32 : Statement (.fscalbnF32) := rfl
theorem fscalbnF64 : Statement (.fscalbnF64) := rfl
theorem fscalbnF80 : Statement (.fscalbnF80) := rfl
theorem fscalbnF128 : Statement (.fscalbnF128) := rfl
theorem feqF16 (q : Bool) : Statement (.feqF16 q) := by cases q <;> rfl
theorem feqF32 (q : Bool) : Statement (.feqF32 q) := by cases q <;> rfl
theorem feqF64 (q : Bool) : Statement (.feqF64 q) := by cases q <;> rfl
theorem feqF80 (q : Bool) : Statement (.feqF80 q) := by cases q <;> rfl
theorem feqF128 (q : Bool) : Statement (.feqF128 q) := by cases q <;> rfl
theorem fleF16 (q : Bool) : Statement (.fleF16 q) := by cases q <;> rfl
theorem fleF32 (q : Bool) : Statement (.fleF32 q) := by cases q <;> rfl
theorem fleF64 (q : Bool) : Statement (.fleF64 q) := by cases q <;> rfl
theorem fleF80 (q : Bool) : Statement (.fleF80 q) := by cases q <;> rfl
theorem fleF128 (q : Bool) : Statement (.fleF128 q) := by cases q <;> rfl
theorem fltF16 (q : Bool) : Statement (.fltF16 q) := by cases q <;> rfl
theorem fltF32 (q : Bool) : Statement (.fltF32 q) := by cases q <;> rfl
theorem fltF64 (q : Bool) : Statement (.fltF64 q) := by cases q <;> rfl
theorem fltF80 (q : Bool) : Statement (.fltF80 q) := by cases q <;> rfl
theorem fltF128 (q : Bool) : Statement (.fltF128 q) := by cases q <;> rfl
theorem funordF16 (q : Bool) : Statement (.funordF16 q) := by cases q <;> rfl
theorem funordF32 (q : Bool) : Statement (.funordF32 q) := by cases q <;> rfl
theorem funordF64 (q : Bool) : Statement (.funordF64 q) := by cases q <;> rfl
theorem funordF80 (q : Bool) : Statement (.funordF80 q) := by cases q <;> rfl
theorem funordF128 (q : Bool) : Statement (.funordF128 q) := by cases q <;> rfl
theorem fcmpF16 (q : Bool) : Statement (.fcmpF16 q) := by cases q <;> rfl
theorem fcmpF32 (q : Bool) : Statement (.fcmpF32 q) := by cases q <;> rfl
theorem fcmpF64 (q : Bool) : Statement (.fcmpF64 q) := by cases q <;> rfl
theorem fcmpF80 (q : Bool) : Statement (.fcmpF80 q) := by cases q <;> rfl
theorem fcmpF128 (q : Bool) : Statement (.fcmpF128 q) := by cases q <;> rfl
theorem fminnumF16 : Statement (.fminnumF16) := rfl
theorem fminnumF32 : Statement (.fminnumF32) := rfl
theorem fminnumF64 : Statement (.fminnumF64) := rfl
theorem fminnumF80 : Statement (.fminnumF80) := rfl
theorem fminnumF128 : Statement (.fminnumF128) := rfl
theorem fmaxnumF16 : Statement (.fmaxnumF16) := rfl
theorem fmaxnumF32 : Statement (.fmaxnumF32) := rfl
theorem fmaxnumF64 : Statement (.fmaxnumF64) := rfl
theorem fmaxnumF80 : Statement (.fmaxnumF80) := rfl
theorem fmaxnumF128 : Statement (.fmaxnumF128) := rfl
theorem fminnummagF16 : Statement (.fminnummagF16) := rfl
theorem fminnummagF32 : Statement (.fminnummagF32) := rfl
theorem fminnummagF64 : Statement (.fminnummagF64) := rfl
theorem fminnummagF80 : Statement (.fminnummagF80) := rfl
theorem fminnummagF128 : Statement (.fminnummagF128) := rfl
theorem fmaxnummagF16 : Statement (.fmaxnummagF16) := rfl
theorem fmaxnummagF32 : Statement (.fmaxnummagF32) := rfl
theorem fmaxnummagF64 : Statement (.fmaxnummagF64) := rfl
theorem fmaxnummagF80 : Statement (.fmaxnummagF80) := rfl
theorem fmaxnummagF128 : Statement (.fmaxnummagF128) := rfl
theorem rdctl : Statement (.rdctl) := rfl
theorem wrctl : Statement (.wrctl) := rfl
theorem rdflg : Statement (.rdflg) := rfl
theorem wrflg : Statement (.wrflg) := rfl

end Sys2Proof.Laws.Legal
end

