-- ==== Sys2Proof/Tests/Slice0.lean ====
section
/-!
SUPPORT. Tests/Slice0.lean: the model's own tests: the five checks on ill-formed command words, a word of every row of the table as the spec's encoding
writes it, and worked examples of the spec, one step each; and, for every statement
with hypotheses, a witness that they can be met. Every expected value is the spec's: the comment of a test names the file and line.
-/

namespace Sys2Proof.Machine.Tests

set_option Elab.async false

/-! ## The five checks of spec/30_encoding.md R76 -/

/-- A command word from its fields: `CMD[31:18]`, `MOD`, `FMT2`, `FMT`, `OPC`. -/
def fields (rsv mod fmt2 fmt opc : Nat) : Command :=
  { opc := BitVec.ofNat 8 opc, fmt := BitVec.ofNat 3 fmt, fmt2 := BitVec.ofNat 3 fmt2, mod := BitVec.ofNat 4 mod, rsv := BitVec.ofNat 14 rsv }

theorem test_wellFormed_add : (fields 0 0 0 3 0x00).wellFormed = true := by decide +kernel
theorem test_illFormed_reserved : (fields 1 0 0 0 0x60).wellFormed = false ∧ (fields 1 0 0 0 0x60).reservedOk = false := by decide +kernel
theorem test_illFormed_opcode : (fields 0 0 0 0 0x90).wellFormed = false ∧ (fields 0 0 0 0 0x90).opcodeOk = false := by decide +kernel
theorem test_illFormed_format : (fields 0 0 0 3 0x0A).wellFormed = false ∧ (fields 0 0 0 3 0x0A).formatOk = false ∧
    (fields 0 0 0 5 0x60).wellFormed = false ∧ (fields 0 0 0 2 0x0C).wellFormed = false := by decide +kernel
theorem test_illFormed_format2 : (fields 0 0 1 1 0x52).wellFormed = false ∧ (fields 0 0 1 1 0x52).format2Ok = false ∧
    (fields 0 0 4 1 0x50).wellFormed = false ∧ (fields 0 0 1 0 0x60).wellFormed = false := by decide +kernel
theorem test_illFormed_modifier : (fields 0 2 0 1 0x51).wellFormed = false ∧ (fields 0 2 0 1 0x51).modifierOk = false ∧
    (fields 0 1 0 0 0x60).wellFormed = false := by decide +kernel
theorem test_firstFailingCheckNames : decode 0x00040090 = .error .reservedBits ∧ decode 0x00008390 = .error .badOpcode ∧
    decode 0x00008F60 = .error .badFormat ∧ decode 0x00008960 = .error .badFormat2 := by decide +kernel

/-! ## A word of every row (R70 to R75) -/

/-- Rows of family 0, part A: their words, modifier bits one at a time, as R70 to R75 write them. -/
def multiWordAWords : List Nat := [
  0x00000, 0x00100, 0x00200, 0x00300, 0x00001, 0x00101, 0x00201, 0x00301, 0x00002, 0x00102, 0x00202, 0x00302,
  0x00003, 0x00103, 0x00203, 0x00303, 0x00004, 0x00104, 0x00204, 0x00304, 0x00005, 0x00105, 0x00205, 0x00305]
/-- The instructions those words stand for. -/
def multiWordARows : List Instr := [
  .add64, .add128, .add192, .add256, .sub64, .sub128, .sub192, .sub256,
  .cmpeq64, .cmpeq128, .cmpeq192, .cmpeq256, .cmpne64, .cmpne128, .cmpne192, .cmpne256,
  .cmplt64, .cmplt128, .cmplt192, .cmplt256, .cmple64, .cmple128, .cmple192, .cmple256]
theorem test_decode_multiWordA : multiWordAWords.map (fun w => decode (BitVec.ofNat 32 w)) = multiWordARows.map .ok := by decide +kernel
theorem test_encode_multiWordA : multiWordARows.map encode = multiWordAWords.map (BitVec.ofNat 32) := by decide +kernel

/-- Rows of family 0, part B: their words, modifier bits one at a time, as R70 to R75 write them. -/
def multiWordBWords : List Nat := [
  0x00006, 0x00106, 0x00206, 0x00306, 0x00007, 0x00107, 0x00207, 0x00307, 0x00008, 0x00108, 0x00208, 0x00308,
  0x00009, 0x00109, 0x00209, 0x00309, 0x0000A, 0x0010A, 0x0020A, 0x0010B, 0x0010C, 0x0010D]
/-- The instructions those words stand for. -/
def multiWordBRows : List Instr := [
  .shl64, .shl128, .shl192, .shl256, .shr64, .shr128, .shr192, .shr256,
  .shrj64, .shrj128, .shrj192, .shrj256, .clz64, .clz128, .clz192, .clz256,
  .mul64x64, .mul128x64, .mul192x64, .mul128x128, .divest128, .divq128]
theorem test_decode_multiWordB : multiWordBWords.map (fun w => decode (BitVec.ofNat 32 w)) = multiWordBRows.map .ok := by decide +kernel
theorem test_encode_multiWordB : multiWordBRows.map encode = multiWordBWords.map (BitVec.ofNat 32) := by decide +kernel

/-- Rows of family 2: their words, modifier bits one at a time, as R70 to R75 write them. -/
def packUnpackWords : List Nat := [
  0x00020, 0x00120, 0x00220, 0x00320, 0x00420, 0x00021, 0x00121, 0x00221, 0x00321, 0x00421, 0x00022, 0x00122,
  0x00222, 0x00322, 0x00422, 0x00023, 0x00123, 0x00223, 0x00323, 0x00423]
/-- The instructions those words stand for. -/
def packUnpackRows : List Instr := [
  .xsignF16, .xsignF32, .xsignF64, .xsignF80, .xsignF128, .xexpF16, .xexpF32, .xexpF64,
  .xexpF80, .xexpF128, .xsigF16, .xsigF32, .xsigF64, .xsigF80, .xsigF128, .packF16,
  .packF32, .packF64, .packF80, .packF128]
theorem test_decode_packUnpack : packUnpackWords.map (fun w => decode (BitVec.ofNat 32 w)) = packUnpackRows.map .ok := by decide +kernel
theorem test_encode_packUnpack : packUnpackRows.map encode = packUnpackWords.map (BitVec.ofNat 32) := by decide +kernel

/-- Rows of family 3: their words, modifier bits one at a time, as R70 to R75 write them. -/
def roundPackWords : List Nat := [
  0x00030, 0x00130, 0x00230, 0x00330, 0x00430, 0x00031, 0x00131, 0x00231, 0x00331, 0x00431, 0x00032, 0x00832,
  0x01032, 0x01832]
/-- The instructions those words stand for. -/
def roundPackRows : List Instr := [
  .rpackF16, .rpackF32, .rpackF64, .rpackF80, .rpackF128, .nrpackF16, .nrpackF32, .nrpackF64,
  .nrpackF80, .nrpackF128, .rpackiI32, .rpackiI64, .rpackiU32, .rpackiU64]
theorem test_decode_roundPack : roundPackWords.map (fun w => decode (BitVec.ofNat 32 w)) = roundPackRows.map .ok := by decide +kernel
theorem test_encode_roundPack : roundPackRows.map encode = roundPackWords.map (BitVec.ofNat 32) := by decide +kernel

/-- Rows of family 4, part A: their words, modifier bits one at a time, as R70 to R75 write them. -/
def nanAWords : List Nat := [
  0x00040, 0x00140, 0x00240, 0x00340, 0x00440, 0x00041, 0x00141, 0x00241, 0x00341, 0x00441, 0x00042, 0x00142,
  0x00242, 0x00342, 0x00442, 0x00043, 0x04043, 0x00143, 0x04143, 0x00243, 0x04243, 0x00343, 0x04343, 0x00443]
/-- The instructions those words stand for. -/
def nanARows : List Instr := [
  .issnanF16, .issnanF32, .issnanF64, .issnanF80, .issnanF128, .isqnanF16, .isqnanF32, .isqnanF64,
  .isqnanF80, .isqnanF128, .propnanF16, .propnanF32, .propnanF64, .propnanF80, .propnanF128, .propnan3F16 false,
  .propnan3F16 true, .propnan3F32 false, .propnan3F32 true, .propnan3F64 false, .propnan3F64 true, .propnan3F80 false, .propnan3F80 true, .propnan3F128 false]
theorem test_decode_nanA : nanAWords.map (fun w => decode (BitVec.ofNat 32 w)) = nanARows.map .ok := by decide +kernel
theorem test_encode_nanA : nanARows.map encode = nanAWords.map (BitVec.ofNat 32) := by decide +kernel

/-- Rows of family 4, part B: their words, modifier bits one at a time, as R70 to R75 write them. -/
def nanBWords : List Nat := [
  0x04443, 0x00044, 0x00144, 0x00244, 0x00344, 0x00444]
/-- The instructions those words stand for. -/
def nanBRows : List Instr := [
  .propnan3F128 true, .defnanF16, .defnanF32, .defnanF64, .defnanF80, .defnanF128]
theorem test_decode_nanB : nanBWords.map (fun w => decode (BitVec.ofNat 32 w)) = nanBRows.map .ok := by decide +kernel
theorem test_encode_nanB : nanBRows.map encode = nanBWords.map (BitVec.ofNat 32) := by decide +kernel

/-- Rows of family 5, part A: their words, modifier bits one at a time, as R70 to R75 write them. -/
def convertAWords : List Nat := [
  0x00050, 0x00850, 0x01050, 0x01850, 0x00150, 0x00950, 0x01150, 0x01950, 0x00250, 0x00A50, 0x01250, 0x01A50,
  0x00350, 0x00B50, 0x01350, 0x01B50, 0x00450, 0x00C50, 0x01450, 0x01C50, 0x00051, 0x04051, 0x00851, 0x04851]
/-- The instructions those words stand for. -/
def convertARows : List Instr := [
  .i2fF16I32, .i2fF16I64, .i2fF16U32, .i2fF16U64, .i2fF32I32, .i2fF32I64, .i2fF32U32, .i2fF32U64,
  .i2fF64I32, .i2fF64I64, .i2fF64U32, .i2fF64U64, .i2fF80I32, .i2fF80I64, .i2fF80U32, .i2fF80U64,
  .i2fF128I32, .i2fF128I64, .i2fF128U32, .i2fF128U64, .f2iF16I32 false, .f2iF16I32 true, .f2iF16I64 false, .f2iF16I64 true]
theorem test_decode_convertA : convertAWords.map (fun w => decode (BitVec.ofNat 32 w)) = convertARows.map .ok := by decide +kernel
theorem test_encode_convertA : convertARows.map encode = convertAWords.map (BitVec.ofNat 32) := by decide +kernel

/-- Rows of family 5, part B: their words, modifier bits one at a time, as R70 to R75 write them. -/
def convertBWords : List Nat := [
  0x01051, 0x05051, 0x01851, 0x05851, 0x00151, 0x04151, 0x00951, 0x04951, 0x01151, 0x05151, 0x01951, 0x05951,
  0x00251, 0x04251, 0x00A51, 0x04A51, 0x01251, 0x05251, 0x01A51, 0x05A51, 0x00351, 0x04351, 0x00B51, 0x04B51]
/-- The instructions those words stand for. -/
def convertBRows : List Instr := [
  .f2iF16U32 false, .f2iF16U32 true, .f2iF16U64 false, .f2iF16U64 true, .f2iF32I32 false, .f2iF32I32 true, .f2iF32I64 false, .f2iF32I64 true,
  .f2iF32U32 false, .f2iF32U32 true, .f2iF32U64 false, .f2iF32U64 true, .f2iF64I32 false, .f2iF64I32 true, .f2iF64I64 false, .f2iF64I64 true,
  .f2iF64U32 false, .f2iF64U32 true, .f2iF64U64 false, .f2iF64U64 true, .f2iF80I32 false, .f2iF80I32 true, .f2iF80I64 false, .f2iF80I64 true]
theorem test_decode_convertB : convertBWords.map (fun w => decode (BitVec.ofNat 32 w)) = convertBRows.map .ok := by decide +kernel
theorem test_encode_convertB : convertBRows.map encode = convertBWords.map (BitVec.ofNat 32) := by decide +kernel

/-- Rows of family 5, part C: their words, modifier bits one at a time, as R70 to R75 write them. -/
def convertCWords : List Nat := [
  0x01351, 0x05351, 0x01B51, 0x05B51, 0x00451, 0x04451, 0x00C51, 0x04C51, 0x01451, 0x05451, 0x01C51, 0x05C51,
  0x00852, 0x01052, 0x01852, 0x02052, 0x00152, 0x01152, 0x01952, 0x02152, 0x00252, 0x00A52, 0x01A52, 0x02252]
/-- The instructions those words stand for. -/
def convertCRows : List Instr := [
  .f2iF80U32 false, .f2iF80U32 true, .f2iF80U64 false, .f2iF80U64 true, .f2iF128I32 false, .f2iF128I32 true, .f2iF128I64 false, .f2iF128I64 true,
  .f2iF128U32 false, .f2iF128U32 true, .f2iF128U64 false, .f2iF128U64 true, .f2fF16F32, .f2fF16F64, .f2fF16F80, .f2fF16F128,
  .f2fF32F16, .f2fF32F64, .f2fF32F80, .f2fF32F128, .f2fF64F16, .f2fF64F32, .f2fF64F80, .f2fF64F128]
theorem test_decode_convertC : convertCWords.map (fun w => decode (BitVec.ofNat 32 w)) = convertCRows.map .ok := by decide +kernel
theorem test_encode_convertC : convertCRows.map encode = convertCWords.map (BitVec.ofNat 32) := by decide +kernel

/-- Rows of family 5, part D: their words, modifier bits one at a time, as R70 to R75 write them. -/
def convertDWords : List Nat := [
  0x00352, 0x00B52, 0x01352, 0x02352, 0x00452, 0x00C52, 0x01452, 0x01C52]
/-- The instructions those words stand for. -/
def convertDRows : List Instr := [
  .f2fF80F16, .f2fF80F32, .f2fF80F64, .f2fF80F128, .f2fF128F16, .f2fF128F32, .f2fF128F64, .f2fF128F80]
theorem test_decode_convertD : convertDWords.map (fun w => decode (BitVec.ofNat 32 w)) = convertDRows.map .ok := by decide +kernel
theorem test_encode_convertD : convertDRows.map encode = convertDWords.map (BitVec.ofNat 32) := by decide +kernel

/-- Rows of family 6, part A: their words, modifier bits one at a time, as R70 to R75 write them. -/
def arithAWords : List Nat := [
  0x00060, 0x00160, 0x00260, 0x00360, 0x00460, 0x00061, 0x00161, 0x00261, 0x00361, 0x00461, 0x00062, 0x00162,
  0x00262, 0x00362, 0x00462, 0x00063, 0x00163, 0x00263, 0x00363, 0x00463, 0x00064, 0x00164, 0x00264, 0x00364]
/-- The instructions those words stand for. -/
def arithARows : List Instr := [
  .faddF16, .faddF32, .faddF64, .faddF80, .faddF128, .fsubF16, .fsubF32, .fsubF64,
  .fsubF80, .fsubF128, .fmulF16, .fmulF32, .fmulF64, .fmulF80, .fmulF128, .fdivF16,
  .fdivF32, .fdivF64, .fdivF80, .fdivF128, .fremF16, .fremF32, .fremF64, .fremF80]
theorem test_decode_arithA : arithAWords.map (fun w => decode (BitVec.ofNat 32 w)) = arithARows.map .ok := by decide +kernel
theorem test_encode_arithA : arithARows.map encode = arithAWords.map (BitVec.ofNat 32) := by decide +kernel

/-- Rows of family 6, part B: their words, modifier bits one at a time, as R70 to R75 write them. -/
def arithBWords : List Nat := [
  0x00464, 0x00065, 0x00165, 0x04165, 0x08165, 0x10165, 0x20165, 0x00265, 0x00365, 0x00465, 0x00066, 0x00166,
  0x00266, 0x00366, 0x00466, 0x00067, 0x00167, 0x00267, 0x00367, 0x00467, 0x00068, 0x00168, 0x00268, 0x00368]
/-- The instructions those words stand for. -/
def arithBRows : List Instr := [
  .fremF128, .fmaF16 false false false false, .fmaF32 false false false false, .fmaF32 true false false false, .fmaF32 false true false false, .fmaF32 false false true false, .fmaF32 false false false true, .fmaF64 false false false false,
  .fmaF80 false false false false, .fmaF128 false false false false, .fsqrtF16, .fsqrtF32, .fsqrtF64, .fsqrtF80, .fsqrtF128, .frintF16,
  .frintF32, .frintF64, .frintF80, .frintF128, .fscalbnF16, .fscalbnF32, .fscalbnF64, .fscalbnF80]
theorem test_decode_arithB : arithBWords.map (fun w => decode (BitVec.ofNat 32 w)) = arithBRows.map .ok := by decide +kernel
theorem test_encode_arithB : arithBRows.map encode = arithBWords.map (BitVec.ofNat 32) := by decide +kernel

/-- Rows of family 6, part C: their words, modifier bits one at a time, as R70 to R75 write them. -/
def arithCWords : List Nat := [
  0x00468]
/-- The instructions those words stand for. -/
def arithCRows : List Instr := [
  .fscalbnF128]
theorem test_decode_arithC : arithCWords.map (fun w => decode (BitVec.ofNat 32 w)) = arithCRows.map .ok := by decide +kernel
theorem test_encode_arithC : arithCRows.map encode = arithCWords.map (BitVec.ofNat 32) := by decide +kernel

/-- Rows of family 7, part A: their words, modifier bits one at a time, as R70 to R75 write them. -/
def compareAWords : List Nat := [
  0x00070, 0x04070, 0x00170, 0x04170, 0x00270, 0x04270, 0x00370, 0x04370, 0x00470, 0x04470, 0x00071, 0x04071,
  0x00171, 0x04171, 0x00271, 0x04271, 0x00371, 0x04371, 0x00471, 0x04471, 0x00072, 0x04072, 0x00172, 0x04172]
/-- The instructions those words stand for. -/
def compareARows : List Instr := [
  .feqF16 false, .feqF16 true, .feqF32 false, .feqF32 true, .feqF64 false, .feqF64 true, .feqF80 false, .feqF80 true,
  .feqF128 false, .feqF128 true, .fleF16 false, .fleF16 true, .fleF32 false, .fleF32 true, .fleF64 false, .fleF64 true,
  .fleF80 false, .fleF80 true, .fleF128 false, .fleF128 true, .fltF16 false, .fltF16 true, .fltF32 false, .fltF32 true]
theorem test_decode_compareA : compareAWords.map (fun w => decode (BitVec.ofNat 32 w)) = compareARows.map .ok := by decide +kernel
theorem test_encode_compareA : compareARows.map encode = compareAWords.map (BitVec.ofNat 32) := by decide +kernel

/-- Rows of family 7, part B: their words, modifier bits one at a time, as R70 to R75 write them. -/
def compareBWords : List Nat := [
  0x00272, 0x04272, 0x00372, 0x04372, 0x00472, 0x04472, 0x00073, 0x04073, 0x00173, 0x04173, 0x00273, 0x04273,
  0x00373, 0x04373, 0x00473, 0x04473, 0x00074, 0x04074, 0x00174, 0x04174, 0x00274, 0x04274, 0x00374, 0x04374]
/-- The instructions those words stand for. -/
def compareBRows : List Instr := [
  .fltF64 false, .fltF64 true, .fltF80 false, .fltF80 true, .fltF128 false, .fltF128 true, .funordF16 false, .funordF16 true,
  .funordF32 false, .funordF32 true, .funordF64 false, .funordF64 true, .funordF80 false, .funordF80 true, .funordF128 false, .funordF128 true,
  .fcmpF16 false, .fcmpF16 true, .fcmpF32 false, .fcmpF32 true, .fcmpF64 false, .fcmpF64 true, .fcmpF80 false, .fcmpF80 true]
theorem test_decode_compareB : compareBWords.map (fun w => decode (BitVec.ofNat 32 w)) = compareBRows.map .ok := by decide +kernel
theorem test_encode_compareB : compareBRows.map encode = compareBWords.map (BitVec.ofNat 32) := by decide +kernel

/-- Rows of family 7, part C: their words, modifier bits one at a time, as R70 to R75 write them. -/
def compareCWords : List Nat := [
  0x00474, 0x04474, 0x00075, 0x00175, 0x00275, 0x00375, 0x00475, 0x00076, 0x00176, 0x00276, 0x00376, 0x00476,
  0x00077, 0x00177, 0x00277, 0x00377, 0x00477, 0x00078, 0x00178, 0x00278, 0x00378, 0x00478]
/-- The instructions those words stand for. -/
def compareCRows : List Instr := [
  .fcmpF128 false, .fcmpF128 true, .fminnumF16, .fminnumF32, .fminnumF64, .fminnumF80, .fminnumF128, .fmaxnumF16,
  .fmaxnumF32, .fmaxnumF64, .fmaxnumF80, .fmaxnumF128, .fminnummagF16, .fminnummagF32, .fminnummagF64, .fminnummagF80,
  .fminnummagF128, .fmaxnummagF16, .fmaxnummagF32, .fmaxnummagF64, .fmaxnummagF80, .fmaxnummagF128]
theorem test_decode_compareC : compareCWords.map (fun w => decode (BitVec.ofNat 32 w)) = compareCRows.map .ok := by decide +kernel
theorem test_encode_compareC : compareCRows.map encode = compareCWords.map (BitVec.ofNat 32) := by decide +kernel

/-- Rows of family 8: their words, modifier bits one at a time, as R70 to R75 write them. -/
def statusWords : List Nat := [
  0x00080, 0x00081, 0x00082, 0x00083]
/-- The instructions those words stand for. -/
def statusRows : List Instr := [
  .rdctl, .wrctl, .rdflg, .wrflg]
theorem test_decode_status : statusWords.map (fun w => decode (BitVec.ofNat 32 w)) = statusRows.map .ok := by decide +kernel
theorem test_encode_status : statusRows.map encode = statusWords.map (BitVec.ofNat 32) := by decide +kernel

/-- The table's bit numbering: a word of a row, given as a number, is what the decoder reads. -/
theorem test_decodeTableWord : decodeTableWord 32 0x00000365 = some (.fmaF80 false false false false) ∧ decodeTableWord 32 0x00040060 = none := by
  decide +kernel

/-- `State.withFetchWord` places the word so that the next step runs it, after reset and before a request that waits. -/
theorem test_withFetchWord :
    (match step (State.reset.withFetchWord 32 0x00000244) with
      | .next t => t.response == some { r := 0x7FF8000000000000, x := 0, err := 0 } | _ => false) = true ∧
    (match step (State.withFetchWord { State.reset with inputs := [.request { cmd := 0, a := 5, b := 3, c := 0 }] } 32 0x00000001) with
      | .next t => t.response == some { r := 2, x := 0, err := 0 } | _ => false) = true := by decide +kernel

/-! ## Worked examples of the spec, one step each -/

/-- A unit with the modes `ctl`, no flag, and one request presented. -/
def presented (ctl cmd a b c : Nat) : State :=
  { State.reset with
    ctl := BitVec.ofNat 32 ctl
    inputs := [.request { cmd := BitVec.ofNat 32 cmd, a := BitVec.ofNat 256 a, b := BitVec.ofNat 256 b, c := BitVec.ofNat 128 c }] }

/-- The step answers `R = r`, `X = x`, `ERR = err`, and leaves `FLG = flg`, `HALT` set exactly for a contract violation, `CTL` as it was. -/
def answered (ctl cmd a b c r x flg err : Nat) : Bool :=
  match step (presented ctl cmd a b c) with
  | .next t => t.response == some { r := BitVec.ofNat 256 r, x := BitVec.ofNat 64 x, err := BitVec.ofNat 2 err } && t.flg == BitVec.ofNat 32 flg &&
      t.halt == (err == 2) && t.ctl == BitVec.ofNat 32 ctl && t.inputs == []
  | _ => false

-- spec/95_test_vectors.md:262: ADD128
theorem test_add_a : answered 5 0x00100 0xFFFFFFFFFFFFFFFF 1 0 0x10000000000000000 0 0 0 = true := by decide +kernel
-- spec/95_test_vectors.md:260: ADD64
theorem test_add_b : answered 0 0x00000 0xFFFFFFFFFFFFFFFF 1 0 0 1 0 0 = true := by decide +kernel
-- spec/95_test_vectors.md:268: SUB64
theorem test_sub_a : answered 0 0x00001 0 1 0 0xFFFFFFFFFFFFFFFF 1 0 0 = true := by decide +kernel
-- spec/95_test_vectors.md:270: SUB128
theorem test_sub_b : answered 0 0x00101 0x10000000000000000 1 0 0xFFFFFFFFFFFFFFFF 0 0 0 = true := by decide +kernel
-- spec/95_test_vectors.md:277: CMPEQ64
theorem test_cmpeq_a : answered 0 0x00002 0x10000000000000007 7 0 1 0 0 0 = true := by decide +kernel
-- spec/95_test_vectors.md:278: CMPEQ128
theorem test_cmpeq_b : answered 0 0x00102 0x10000000000000007 7 0 0 0 0 0 = true := by decide +kernel
-- spec/95_test_vectors.md:279: CMPNE128
theorem test_cmpne_a : answered 0 0x00103 0x10000000000000007 7 0 1 0 0 0 = true := by decide +kernel
-- spec/95_test_vectors.md:280: CMPNE256
theorem test_cmpne_b : answered 0 0x00303 0xFFFFFFFFFFFFFFFFFFFFFFFFFFFFFFFFFFFFFFFFFFFFFFFFFFFFFFFFFFFFFFFF 0xFFFFFFFFFFFFFFFFFFFFFFFFFFFFFFFFFFFFFFFFFFFFFFFFFFFFFFFFFFFFFFFF 0 0 0 0 0 = true := by decide +kernel
-- spec/95_test_vectors.md:281: CMPLT64
theorem test_cmplt_a : answered 0 0x00004 1 2 0 1 0 0 0 = true := by decide +kernel
-- spec/95_test_vectors.md:283: CMPLT128
theorem test_cmplt_b : answered 0 0x00104 0xFFFFFFFFFFFFFFFF 0x10000000000000000 0 1 0 0 0 = true := by decide +kernel
-- spec/95_test_vectors.md:286: CMPLE256
theorem test_cmple_a : answered 0 0x00305 5 5 0 1 0 0 0 = true := by decide +kernel
-- spec/95_test_vectors.md:287: CMPLE64
theorem test_cmple_b : answered 0 0x00005 6 5 0 0 0 0 0 = true := by decide +kernel
-- spec/95_test_vectors.md:292: SHL64
theorem test_shl_a : answered 0 0x00006 1 0 0 1 0 0 0 = true := by decide +kernel
-- spec/95_test_vectors.md:296: SHL128
theorem test_shl_b : answered 0 0x00106 1 0x7F 0 0x80000000000000000000000000000000 0 0 0 = true := by decide +kernel
-- spec/95_test_vectors.md:300: SHR64
theorem test_shr_a : answered 0 0x00007 0x8000000000000001 1 0 0x4000000000000000 0 0 0 = true := by decide +kernel
-- spec/95_test_vectors.md:301: SHR128
theorem test_shr_b : answered 0 0x00107 0x80000000000000000000000000000000 0x7F 0 1 0 0 0 = true := by decide +kernel
-- spec/95_test_vectors.md:305: SHRJ64
theorem test_shrj_a : answered 0 0x00008 0x8000000000000001 1 0 0x4000000000000001 0 0 0 = true := by decide +kernel
-- spec/95_test_vectors.md:311: SHRJ128
theorem test_shrj_b : answered 0 0x00108 0x10000000000000000 0xC8 0 1 0 0 0 = true := by decide +kernel
-- spec/95_test_vectors.md:319: CLZ64
theorem test_clz_a : answered 0 0x00009 0 0 0 0x40 0 0 0 = true := by decide +kernel
-- spec/95_test_vectors.md:322: CLZ128
theorem test_clz_b : answered 0 0x00109 0 0 0 0x80 0 0 0 = true := by decide +kernel
-- spec/95_test_vectors.md:333: MUL64X64
theorem test_mulByWord_a : answered 0 0x0000A 0xFFFFFFFFFFFFFFFF 0xFFFFFFFFFFFFFFFF 0 0xFFFFFFFFFFFFFFFE0000000000000001 0 0 0 = true := by decide +kernel
-- spec/95_test_vectors.md:336: MUL128X64
theorem test_mulByWord_b : answered 0 0x0010A 0xFFFFFFFFFFFFFFFFFFFFFFFFFFFFFFFF 0xFFFFFFFFFFFFFFFF 0 0xFFFFFFFFFFFFFFFEFFFFFFFFFFFFFFFF0000000000000001 0 0 0 = true := by decide +kernel
-- spec/95_test_vectors.md:340: MUL128X128
theorem test_mul128x128_a : answered 0 0x0010B 0xFFFFFFFFFFFFFFFFFFFFFFFFFFFFFFFF 0xFFFFFFFFFFFFFFFFFFFFFFFFFFFFFFFF 0 0xFFFFFFFFFFFFFFFFFFFFFFFFFFFFFFFE00000000000000000000000000000001 0 0 0 = true := by decide +kernel
-- spec/95_test_vectors.md:341: MUL128X128
theorem test_mul128x128_b : answered 0 0x0010B 0x10000000000000000000000000001 0x10000000000000000000000000001 0 0x100000000000000000000000000020000000000000000000000000001 0 0 0 = true := by decide +kernel
-- spec/95_test_vectors.md:352: DIVEST128
theorem test_divest128_a : answered 0 0x0010C 5 0 0 0 0 0 2 = true := by decide +kernel
-- spec/95_test_vectors.md:353: DIVEST128
theorem test_divest128_b : answered 0 0x0010C 0x30000000000000000 3 0 0 0 0 2 = true := by decide +kernel
-- spec/95_test_vectors.md:361: DIVQ128
theorem test_divq128_a : answered 0 0x0010D 5 0 0 0 0 0 2 = true := by decide +kernel
-- spec/95_test_vectors.md:354: DIVQ128
theorem test_divq128_b : answered 0 0x0010D 0x10000000000000000 3 0 0x5555555555555555 1 0 0 = true := by decide +kernel
-- spec/95_test_vectors.md:377: XSIGN.F80
theorem test_xsign_a : answered 0 0x00320 0xC000C90FDAA22168C235 0 0 1 0 0 0 = true := by decide +kernel
-- spec/95_test_vectors.md:380: XSIGN.F128
theorem test_xsign_b : answered 0 0x00420 0x3FFF000000000000000000000000ABCD 0 0 0 0 0 0 = true := by decide +kernel
-- spec/95_test_vectors.md:378: XEXP.F80
theorem test_xexp_a : answered 0 0x00321 0xC000C90FDAA22168C235 0 0 0x4000 0 0 0 = true := by decide +kernel
-- spec/95_test_vectors.md:381: XEXP.F128
theorem test_xexp_b : answered 0 0x00421 0x3FFF000000000000000000000000ABCD 0 0 0x3FFF 0 0 0 = true := by decide +kernel
-- spec/95_test_vectors.md:379: XSIG.F80
theorem test_xsig_a : answered 0 0x00322 0xC000C90FDAA22168C235 0 0 0xC90FDAA22168C235 0 0 0 = true := by decide +kernel
-- spec/95_test_vectors.md:382: XSIG.F128
theorem test_xsig_b : answered 0 0x00422 0x3FFF000000000000000000000000ABCD 0 0 0xABCD 0 0 0 = true := by decide +kernel
-- spec/95_test_vectors.md:391: PACK.F80
theorem test_pack_a : answered 0 0x00323 0xC90FDAA22168C235 0x100004000 0 0xC000C90FDAA22168C235 0 0 0 = true := by decide +kernel
-- spec/95_test_vectors.md:392: PACK.F128
theorem test_pack_b : answered 0 0x00423 0xABCD 0x3FFF 0 0x3FFF000000000000000000000000ABCD 0 0 0 = true := by decide +kernel
-- spec/95_test_vectors.md:495: RPACK.F80
theorem test_rpack_a : answered 2 0x00330 0x40000000000000000000000000000000 0x100007FFE 0 0xFFFEFFFFFFFFFFFFFFFF 0 0x14 0 = true := by decide +kernel
-- spec/95_test_vectors.md:530: RPACK.F128
theorem test_rpack_b : answered 8 0x00430 0x1FFFFFFFFFFFFFFFFFFFFFFFFFFFFFFFFFFFFFFFFFFFFFFFFFFFFFFFF 0xFFFFFFFF 0 0x10000000000000000000000000000 0 0x10 0 = true := by decide +kernel
-- spec/95_test_vectors.md:567: NRPACK.F32
theorem test_nrpack_a : answered 0 0x00131 1 9 0 0 0 0x18 0 = true := by decide +kernel
-- spec/95_test_vectors.md:570: NRPACK.F80
theorem test_nrpack_b : answered 0 0x00331 1 0x407C 0 0x3FFF8000000000000000 0 0 0 = true := by decide +kernel
-- spec/95_test_vectors.md:580: RPACKI.I32
theorem test_rpacki_a : answered 1 0x00032 0x68000000000000000 0 0 7 0 0x10 0 = true := by decide +kernel
-- spec/95_test_vectors.md:600: RPACKI.U32
theorem test_rpacki_b : answered 4 0x01032 1 0x100000000 0 0 0 1 0 = true := by decide +kernel
-- spec/43_nan_policy.md R204: ISSNAN.F32
theorem test_issnan_a : answered 0 0x00140 0x7F800001 0 0 1 0 0 0 = true := by decide +kernel
-- spec/43_nan_policy.md R204: ISSNAN.F64
theorem test_issnan_b : answered 0 0x00240 0x7FF4000000000000 0 0 1 0 0 0 = true := by decide +kernel
-- spec/43_nan_policy.md R205: ISQNAN.F16
theorem test_isqnan_a : answered 0 0x00041 0x7E00 0 0 1 0 0 0 = true := by decide +kernel
-- spec/43_nan_policy.md R205: ISQNAN.F16
theorem test_isqnan_b : answered 0 0x00041 0x7D00 0 0 0 0 0 0 = true := by decide +kernel
-- spec/96_test_vectors_part2.md:55: PROPNAN.F80
theorem test_propnan_a : answered 0 0x00342 0x7FFF8000000000000001 0x3FFF8000000000000000 0 0x7FFFC000000000000001 0 1 0 = true := by decide +kernel
-- spec/96_test_vectors_part2.md:50: PROPNAN.F32
theorem test_propnan_b : answered 0 0x00142 0x3F800000 0xFFC12345 0 0xFFC12345 0 0 0 = true := by decide +kernel
-- spec/96_test_vectors_part2.md:58: PROPNAN3.F32
theorem test_propnan3_a : answered 0 0x00143 0x3F800000 0x7FA00000 0x7FC00005 0x7FE00000 0 1 0 = true := by decide +kernel
-- spec/96_test_vectors_part2.md:62: PROPNAN3.F64
theorem test_propnan3_b : answered 0 0x00243 0x7FF8000000000001 0x7FF8000000000002 0x7FF0000000000003 0x7FF8000000000001 0 1 0 = true := by decide +kernel
-- spec/96_test_vectors_part2.md:46: DEFNAN.F80
theorem test_defnan_a : answered 0 0x00344 0 0 0 0x7FFFC000000000000000 0 0 0 = true := by decide +kernel
-- spec/96_test_vectors_part2.md:47: DEFNAN.F128
theorem test_defnan_b : answered 0 0x00444 0 0 0 0x7FFF8000000000000000000000000000 0 0 0 = true := by decide +kernel
-- spec/96_test_vectors_part2.md:99: I2F.F16.U64
theorem test_i2f_a : answered 2 0x01850 0xFFFFFFFFFFFFFFFF 0 0 0x7BFF 0 0x14 0 = true := by decide +kernel
-- spec/96_test_vectors_part2.md:76: I2F.F32.U32
theorem test_i2f_b : answered 2 0x01150 0xFFFFFFFF 0 0 0x4F7FFFFF 0 0x10 0 = true := by decide +kernel
-- spec/96_test_vectors_part2.md:143: F2I.F80.I64
theorem test_f2i_a : answered 2 0x00B51 0x403DFFFFFFFFFFFFFFFF 0 0 0x7FFFFFFFFFFFFFFF 0 0x10 0 = true := by decide +kernel
-- spec/96_test_vectors_part2.md:125: F2I.F32.I32
theorem test_f2i_b : answered 0x20 0x00151 1 0 0 0 0 0x20 0 = true := by decide +kernel
-- spec/96_test_vectors_part2.md:178: F2F.F128.F80
theorem test_f2f_a : answered 0x80 0x01C52 0x4000921FB54442D18469898CC51701B8 0 0 0x4000C90FDAA22168C235 0 0x10 0 = true := by decide +kernel
-- spec/96_test_vectors_part2.md:158: F2F.F64.F32
theorem test_f2f_b : answered 2 0x00A52 0x483D6329F1C35CA5 0 0 0x7F7FFFFF 0 0x14 0 = true := by decide +kernel
-- spec/95_test_vectors.md:208: FADD.F80
theorem test_fadd_a : answered 2 0x00360 0x7FFEFFFFFFFFFFFFFFFF 0x7FFEFFFFFFFFFFFFFFFF 0 0x7FFEFFFFFFFFFFFFFFFF 0 0x14 0 = true := by decide +kernel
-- spec/95_test_vectors.md:210: FADD.F128
theorem test_fadd_b : answered 0 0x00460 0x7FFEFFFFFFFFFFFFFFFFFFFFFFFFFFFF 0x7F8CFFFFFFFFFFFFFFFFFFFFFFFFFFFF 0 0x7FFEFFFFFFFFFFFFFFFFFFFFFFFFFFFF 0 0x10 0 = true := by decide +kernel
-- spec/96_test_vectors_part2.md:234: FSUB.F32
theorem test_fsub_a : answered 0x10 0x00161 0x800000 1 0 0 0 0x40 0 = true := by decide +kernel
-- spec/96_test_vectors_part2.md:238: FSUB.F32
theorem test_fsub_b : answered 2 0x00161 0x3F800000 0x33000000 0 0x3F7FFFFF 0 0x10 0 = true := by decide +kernel
-- spec/95_test_vectors.md:229: FMUL.F80
theorem test_fmul_a : answered 8 0x00362 1 0x3FFE8000000000000000 0 0 0 0x18 0 = true := by decide +kernel
-- spec/96_test_vectors_part2.md:252: FMUL.F32
theorem test_fmul_b : answered 3 0x00162 0xFF7FFFFF 0x40000000 0 0xFF7FFFFF 0 0x14 0 = true := by decide +kernel
-- spec/96_test_vectors_part2.md:274: FDIV.F80
theorem test_fdiv_a : answered 0x40 0x00363 0x3FFF8000000000000000 0x4000C000000000000000 0 0x3FFDAAAAAAAAAAAAA800 0 0x10 0 = true := by decide +kernel
-- spec/96_test_vectors_part2.md:278: FDIV.F32
theorem test_fdiv_b : answered 0x20 0x00163 0x3F800000 1 0 0x7F800000 0 0x22 0 = true := by decide +kernel
-- spec/96_test_vectors_part2.md:296: FREM.F32
theorem test_frem_a : answered 0x10 0x00164 0x800001 0x800000 0 0 0 0x40 0 = true := by decide +kernel
-- spec/96_test_vectors_part2.md:289: FREM.F64
theorem test_frem_b : answered 0 0x00264 0x3FF0000000000000 0 0 0x7FF8000000000000 0 1 0 = true := by decide +kernel
-- spec/95_test_vectors.md:250: FMA.F80
theorem test_fma_a : answered 8 0x00365 1 0xBFFC8000000000000000 0x18000000000000000 0x18000000000000000 0 0x10 0 = true := by decide +kernel
-- spec/95_test_vectors.md:251: FMA.F128
theorem test_fma_b : answered 0 0x00465 1 0xBFFC0000000000000000000000000000 0x10000000000000000000000000000 0x10000000000000000000000000000 0 0x18 0 = true := by decide +kernel
-- spec/96_test_vectors_part2.md:350: FSQRT.F80
theorem test_fsqrt_a : answered 0x40 0x00366 0x40008000000000000000 0 0 0x3FFFB504F333F9DE6800 0 0x10 0 = true := by decide +kernel
-- spec/96_test_vectors_part2.md:345: FSQRT.F32
theorem test_fsqrt_b : answered 0x20 0x00166 0x80000001 0 0 0x80000000 0 0x20 0 = true := by decide +kernel
-- spec/96_test_vectors_part2.md:383: FRINT.F80
theorem test_frint_a : answered 0xC0 0x00367 0x4000A000000000000000 0 0 0x40008000000000000000 0 0x10 0 = true := by decide +kernel
-- spec/96_test_vectors_part2.md:380: FRINT.F32
theorem test_frint_b : answered 0x20 0x00167 1 0 0 0 0 0x20 0 = true := by decide +kernel
-- spec/96_test_vectors_part2.md:406: FSCALBN.F80
theorem test_fscalbn_a : answered 0x40 0x00368 0x3FFF8000000000000001 1 0 0x40008000000000000000 0 0x10 0 = true := by decide +kernel
-- spec/96_test_vectors_part2.md:402: FSCALBN.F128
theorem test_fscalbn_b : answered 0 0x00468 1 0x806E 0 0x7FFF0000000000000000000000000000 0 0x14 0 = true := by decide +kernel
-- spec/96_test_vectors_part2.md:417: FEQ.F32
theorem test_feq_a : answered 0 0x00170 0x7FC00000 0x7FC00000 0 0 0 1 0 = true := by decide +kernel
-- spec/96_test_vectors_part2.md:420: FEQ.F80
theorem test_feq_b : answered 0 0x00370 0x3FFF8000000000000000 0x3FFF8000000000000000 0 1 0 0 0 = true := by decide +kernel
-- spec/96_test_vectors_part2.md:426: FLE.F32
theorem test_fle_a : answered 0 0x00171 0x7FC00000 0x3F800000 0 0 0 1 0 = true := by decide +kernel
-- spec/95_test_vectors.md:119: FLE.F32.Q
theorem test_fle_b : answered 0 0x04171 0x7FC00000 0x3F800000 0 0 0 0 0 = true := by decide +kernel
-- spec/96_test_vectors_part2.md:430: FLT.F32
theorem test_flt_a : answered 0x20 0x00172 0x80000001 0 0 0 0 0x20 0 = true := by decide +kernel
-- spec/96_test_vectors_part2.md:433: FLT.F128
theorem test_flt_b : answered 0 0x00472 0x3FFF0000000000000000000000000000 0x3FFF0000000000000000000000000001 0 1 0 0 0 = true := by decide +kernel
-- spec/96_test_vectors_part2.md:436: FUNORD.F32
theorem test_funord_a : answered 0 0x00173 0x7FC00000 0x3F800000 0 1 0 1 0 = true := by decide +kernel
-- spec/96_test_vectors_part2.md:435: FUNORD.F32
theorem test_funord_b : answered 0 0x00173 0x3F800000 0x40000000 0 0 0 0 0 = true := by decide +kernel
-- spec/96_test_vectors_part2.md:446: FCMP.F32
theorem test_fcmp_a : answered 0x20 0x00174 0x80000001 0 0 1 0 0x20 0 = true := by decide +kernel
-- spec/96_test_vectors_part2.md:443: FCMP.F32
theorem test_fcmp_b : answered 0 0x00174 0x7FC00000 0x3F800000 0 3 0 1 0 = true := by decide +kernel
-- spec/96_test_vectors_part2.md:464: FMINNUM.F32
theorem test_fminnum_a : answered 0x20 0x00175 1 0x80000001 0 0x80000000 0 0x20 0 = true := by decide +kernel
-- spec/96_test_vectors_part2.md:478: FMINNUM.F80
theorem test_fminnum_b : answered 0 0x00375 0x40004000000000000000 0x3FFF8000000000000000 0 0x3FFF8000000000000000 0 0 0 = true := by decide +kernel
-- spec/96_test_vectors_part2.md:477: FMAXNUM.F128
theorem test_fmaxnum_a : answered 0 0x00476 0x3FFF0000000000000000000000000000 0xBFFF0000000000000000000000000000 0 0x3FFF0000000000000000000000000000 0 0 0 = true := by decide +kernel
-- spec/95_test_vectors.md:95: FMAXNUM.F32
theorem test_fmaxnum_b : answered 0 0x00176 0 0x80000000 0 0 0 0 0 = true := by decide +kernel
-- spec/95_test_vectors.md:97: FMINNUMMAG.F64
theorem test_fminnummag_a : answered 0 0x00277 0 0x8000000000000000 0 0x8000000000000000 0 0 0 = true := by decide +kernel
-- spec/96_test_vectors_part2.md:465: FMINNUMMAG.F32
theorem test_fminnummag_b : answered 0 0x00177 0xC0400000 0x40000000 0 0x40000000 0 0 0 = true := by decide +kernel
-- spec/92_eei_decisions.md:93 (D44): FMAXNUM.F80 of two encodings of 1.0 gives the second
theorem test_fmaxnum_tie : answered 0 0x00376 0x3FFF8000000000000000 0x40004000000000000000 0 0x40004000000000000000 0 0 0 = true := by decide +kernel
-- spec/96_test_vectors_part2.md:473: FMAXNUMMAG.F32
theorem test_fmaxnummag_a : answered 0 0x00178 0x7F800001 0x3F800000 0 0x7FC00001 0 1 0 = true := by decide +kernel
-- spec/95_test_vectors.md:98: FMAXNUMMAG.F64
theorem test_fmaxnummag_b : answered 0 0x00278 0x8000000000000000 0 0 0 0 0 0 = true := by decide +kernel
-- spec/47_status_ops.md R320: RDCTL
theorem test_rdctl_a : answered 0x4A 0x00080 0 0 0 0x4A 0 0 0 = true := by decide +kernel

-- spec/47_status_ops.md R321, R322, R323
theorem test_wrctl : (match step (presented 0x4A 0x81 0xFFFFFF03 0 0) with | .next t => t.ctl == 3 | _ => false) = true := by decide +kernel
theorem test_wrflg : (match step (presented 0 0x83 0xFFFFFFFF 0 0) with | .next t => t.flg == 0x7F && t.ctl == 0 | _ => false) = true := by
  decide +kernel
theorem test_rdflg :
    (match step { presented 0 0x82 0 0 0 with flg := 0x12 } with | .next t => t.response == some ⟨0x12, 0, 0⟩ && t.flg == 0x12 | _ => false) = true := by
  decide +kernel
-- spec/60_exceptions.md R345, R346, R347
theorem test_halted :
    (match step { presented 0 0x81 3 0 0 with halt := true } with
      | .next t => t.response == some ⟨0, 0, 2⟩ && t.ctl == 0 && t.halt | _ => false) = true := by decide +kernel
theorem test_illegal_with_bad_mode : answered 7 0x90 0 0 0 0 0 0 1 = true := by decide +kernel
-- spec/20_memory.md R57, spec/70_reset_and_hazards.md R380
theorem test_overlap_refused :
    step { State.reset with inputs := [.overlap Request.absent Request.absent] } = .refused .overlappingRequests := rfl
theorem test_reset_clears_halt :
    (match step { State.reset with halt := true, inputs := [.reset none] } with | .next t => t.halt == false && t.response == none | _ => false) = true := by
  decide +kernel

/-! ## Witnesses: for every statement with hypotheses, states and operands that meet them, each clause at the edge of its range -/

/-- A unit with the modes `ctl` and one request's operands on its ports. -/
def posed (ctl a b c : Nat) : State :=
  { State.reset with
    ctl := BitVec.ofNat 32 ctl
    request := { cmd := 0, a := BitVec.ofNat 256 a, b := BitVec.ofNat 256 b, c := BitVec.ofNat 128 c } }

/-- The operand `A` of an operation on `F`, after `Squash`. -/
def opA (F : Fmt) (s : State) : Pat := squash s.ctl F (patA F s)

/-- The operand `B`, after `Squash`. -/
def opB (F : Fmt) (s : State) : Pat := squash s.ctl F (patB F s)

/-- The operand `C`, after `Squash`. -/
def opC (F : Fmt) (s : State) : Pat := squash s.ctl F (patC F s)

/-- The engine input's exponent and significand on the ports. -/
def inExp (s : State) : ℤ := (s.request.b.setWidth 32).toInt

/-- The engine input's significand on the ports. -/
def inSig (F : Fmt) (s : State) : ℕ := (s.request.a.setWidth F.W).toNat

theorem witness_EncodeDecode : decode 0x0003C165 = .ok (.fmaF32 true true true true) ∧ decode 0x00000000 = .ok .add64 := by decide +kernel

theorem witness_DecodeChecks :
    (Command.ofWord 0x00040000).reservedOk = false ∧ (Command.ofWord 0x80000000).reservedOk = false ∧
    ((Command.ofWord 0x0000000E).reservedOk = true ∧ (Command.ofWord 0x0000000E).opcodeOk = false) ∧
    ((Command.ofWord 0x00000400).reservedOk = true ∧ (Command.ofWord 0x00000400).opcodeOk = true ∧
      (Command.ofWord 0x00000400).formatOk = false) ∧
    ((Command.ofWord 0x00000952).reservedOk = true ∧ (Command.ofWord 0x00000952).opcodeOk = true ∧
      (Command.ofWord 0x00000952).formatOk = true ∧ (Command.ofWord 0x00000952).format2Ok = false) ∧
    ((Command.ofWord 0x00008051).reservedOk = true ∧ (Command.ofWord 0x00008051).opcodeOk = true ∧
      (Command.ofWord 0x00008051).formatOk = true ∧ (Command.ofWord 0x00008051).format2Ok = true ∧
      (Command.ofWord 0x00008051).modifierOk = false) ∧
    (Command.ofWord 0x00000083).wellFormed = true := by decide +kernel

theorem witness_StepRunsDecoded : (presented 0 0x00000365 0 0 0).inputs = .request { cmd := 0x365, a := 0, b := 0, c := 0 } :: [] ∧
    (presented 0 0x00000365 0 0 0).halt = false ∧ decode 0x365 = .ok (.fmaF80 false false false false) := by decide +kernel

theorem witness_HaltedUnit :
    (∃ (s : State) (q : Request) (rest : List Input), s.inputs = .request q :: rest ∧ s.halt = true) ∧
    (∃ s t : State, step s = .next t ∧ s.halt = true ∧ t.halt = false) :=
  ⟨⟨{ State.reset with halt := true, inputs := [.request Request.absent] }, Request.absent, [], rfl, rfl⟩,
   ⟨{ State.reset with halt := true, inputs := [.reset none] }, _, rfl, rfl, rfl⟩⟩

theorem witness_IllegalCommand :
    (presented 0 0x0E 0 0 0).halt = false ∧ (Command.ofWord 0x0E).wellFormed = false ∧
    (0x90 ≤ (0x00000090 : Word).toNat % 256 ∧ (0x00000090 : Word).toNat % 256 ≤ 0x9F) ∧
    (0x90 ≤ (0x0000079F : Word).toNat % 256 ∧ (0x0000079F : Word).toNat % 256 ≤ 0x9F) := by decide +kernel

/-- All three endings happen: with `ERR = 0` (another instruction, `WRCTL`, `WRFLG`), `ERR = 1`, `ERR = 2`. -/
theorem witness_ThreeOutcomes :
    answered 0 0x00000000 1 2 0 3 0 0 0 = true ∧ answered 0 0x00000090 1 2 0 0 0 0 1 = true ∧ answered 0 0x0000010D 1 0 0 0 0 0 2 = true ∧
    (match step (presented 0 0x81 5 0 0) with | .next t => t.ctl == 5 | _ => false) = true ∧
    (match step (presented 0 0x83 5 0 0) with | .next t => t.flg == 5 | _ => false) = true := by decide +kernel

theorem witness_StepStops : (∃ (s : State) (q q' : Request) (rest : List Input), s.inputs = .overlap q q' :: rest) ∧ State.reset.inputs = [] :=
  ⟨⟨{ State.reset with inputs := [.overlap Request.absent Request.absent] }, _, _, _, rfl⟩, rfl⟩

theorem witness_ReservedStaysZero : ∃ s t : State, ReservedZero s ∧ step s = .next t :=
  ⟨presented 0xFF 0x81 0xFFFFFFFF 0 0, _, ⟨by decide +kernel, by decide +kernel⟩, rfl⟩

theorem witness_ResetInput :
    (∃ (s : State) (rest : List Input), s.inputs = .reset (some Request.absent) :: rest) ∧
    (∃ s t : State, step s = .next t ∧ s.halt = true ∧ ∀ abandoned rest, s.inputs ≠ .reset abandoned :: rest) :=
  ⟨⟨{ State.reset with inputs := [.reset (some Request.absent)] }, [], rfl⟩,
   ⟨{ State.reset with halt := true, inputs := [.request Request.absent] }, _, rfl, rfl, fun _ _ h => by simp at h⟩⟩

theorem witness_BootSequence : ∀ first : Bool, ∃ s : State,
    s.inputs = .reset none :: (if first then [.request { cmd := 0x81, a := 0x45, b := 0, c := 0 }, .request { cmd := 0x83, a := 0, b := 0, c := 0 }]
      else [.request { cmd := 0x83, a := 0, b := 0, c := 0 }, .request { cmd := 0x81, a := 0x45, b := 0, c := 0 }]) :=
  fun _ => ⟨{ State.reset with inputs := _ }, rfl⟩

theorem witness_OnlyWrctlWritesCtl :
    (∃ (i : Instr) (s t : State), exec i s = .next t ∧ i ≠ .wrctl) ∧ (∃ s t : State, step s = .next t ∧ t.ctl ≠ s.ctl) :=
  ⟨⟨.add64, State.reset, _, rfl, by decide⟩, ⟨presented 0 0x81 5 0 0, _, rfl, by decide +kernel⟩⟩

theorem witness_FlagsAccumulate :
    (∃ i : Instr, i ≠ .wrflg) ∧ (∃ s t : State, step s = .next t ∧ s.flg.getLsbD 6 = true ∧ t.flg.getLsbD 6 = false) :=
  ⟨⟨.faddF16, by decide⟩, ⟨{ presented 0 0x83 0 0 0 with flg := 0x40 }, _, rfl, by decide +kernel, by decide +kernel⟩⟩

/-- Two states that differ in every unread bit: above the operands, on an unread port, in what earlier requests left. -/
theorem witness_UnreadBits :
    SameOperands .xsignF16 (posed 0 0x8000 0 0).request (posed 0 0xFFFF8000 7 9).request ∧
    (posed 0 0x8000 0 0).ctl = (posed 0 0xFFFF8000 7 9).ctl ∧ (posed 0 0x8000 0 0).request ≠ (posed 0 0xFFFF8000 7 9).request ∧
    (∃ (s t : State) (resp : Response), exec .divq128 s = .next t ∧ t.response = some resp ∧ resp.err ≠ 0) :=
  ⟨by unfold SameOperands; decide +kernel, rfl, by decide +kernel, ⟨posed 0 1 0 0, _, _, rfl, rfl, by decide⟩⟩

theorem witness_OnlyRdflgReadsFlags : Instr.wrflg ≠ .rdflg ∧ Instr.rdctl ≠ .rdflg := by decide

theorem witness_CompletesWithLegalModes :
    LegalMode (posed 0x85 0 0 0).ctl ∧ LegalPrecision (posed 0x85 0 0 0).ctl ∧ Instr.faddF80 ≠ .divest128 ∧ Instr.faddF80 ≠ .divq128 ∧
    LegalMode State.reset.ctl ∧ LegalPrecision State.reset.ctl := by
  simp only [LegalMode, LegalPrecision]; decide +kernel

/-- The flags that the clauses speak of are raised: `OVERFLOW`, `UNDERFLOW`, and `OUTPUT_DENORMAL` alone. -/
theorem witness_FlagCauses :
    Instr.fmulF32 ≠ .wrflg ∧ answered 0 0x162 0x7F7FFFFF 0x40000000 0 0x7F800000 0 0x14 0 = true ∧ answered 0 0x162 1 0x3F000000 0 0 0 0x18 0 = true ∧
    answered 0x10 0x161 0x00800000 1 0 0 0 0x40 0 = true := by decide +kernel

theorem witness_ModeBlind :
    Instr.mul128x128.command.opc.toNat = 0x0B ∧ Instr.xsignF16.command.opc.toNat = 0x20 ∧ Instr.packF128.command.opc.toNat = 0x23 ∧
    Instr.issnanF16.command.opc.toNat = 0x40 ∧ Instr.isqnanF16.command.opc.toNat = 0x41 ∧ Instr.defnanF128.command.opc.toNat = 0x44 ∧
    (Instr.feqF16 true).command.opc.toNat = 0x70 ∧ Instr.divq128.command.opc.toNat = 0x0D := by decide +kernel

theorem witness_MultiWordShifts : Words.w1.bits ≤ ((posed 0 1 64 0).request.b.setWidth 64).toNat ∧
    Words.w4.bits ≤ ((posed 0 1 0xFFFFFFFFFFFFFFFF 0).request.b.setWidth 64).toNat := by decide +kernel

theorem witness_JammingShift : ∃ r r' : Wide, 1 + (2 ^ 64 - 2) < 2 ^ 64 ∧
    Answers (Row.shrj .w1) (State.withOperands 3 (BitVec.ofNat 256 1) 0 State.reset) r 0 0 ∧
    Answers (Row.shrj .w1) (State.withOperands r (BitVec.ofNat 256 (2 ^ 64 - 2)) 0 State.reset) r' 0 0 :=
  ⟨_, _, by norm_num, rfl, rfl⟩

theorem witness_CountLeadingZeros : ((posed 0 0 0 0).request.a.setWidth Words.w1.bits).toNat = 0 ∧
    ((posed 0 1 0 0).request.a.setWidth Words.w1.bits).toNat ≠ 0 ∧
    ((posed 0 (2 ^ 255) 0 0).request.a.setWidth Words.w4.bits).toNat ≠ 0 := by decide +kernel

theorem witness_MultiWordProducts : Row.mul .w1 = some .mul64x64 ∧ Row.mul .w2 = some .mul128x64 ∧ Row.mul .w3 = some .mul192x64 := by decide +kernel

/-- The divides' three cases: a zero divisor, a quotient of exactly `2^64`, the largest dividend in range; and an estimate low by 2. -/
theorem witness_DivideEstimate :
    ((posed 0 5 0 0).request.b.setWidth 64 : BitVec 64) = 0 ∧
    (((posed 0 (3 * 2 ^ 64) 3 0).request.b.setWidth 64 : BitVec 64) ≠ 0 ∧
      ((posed 0 (3 * 2 ^ 64) 3 0).request.b.setWidth 64).toNat ≤ ((posed 0 (3 * 2 ^ 64) 3 0).request.a.setWidth 128).toNat / 2 ^ 64) ∧
    ((posed 0 (3 * 2 ^ 64 - 1) 3 0).request.a.setWidth 128).toNat / 2 ^ 64 < ((posed 0 (3 * 2 ^ 64 - 1) 3 0).request.b.setWidth 64).toNat := by
  decide +kernel

theorem witness_DivideExact :
    ((posed 0 5 0 0).request.b.setWidth 64).toNat = 0 ∧
    (((posed 0 (3 * 2 ^ 64) 3 0).request.b.setWidth 64).toNat ≠ 0 ∧
      ((posed 0 (3 * 2 ^ 64) 3 0).request.b.setWidth 64).toNat ≤ ((posed 0 (3 * 2 ^ 64) 3 0).request.a.setWidth 128).toNat / 2 ^ 64) ∧
    ((posed 0 6 3 0).request.a.setWidth 128).toNat / 2 ^ 64 < ((posed 0 6 3 0).request.b.setWidth 64).toNat ∧
    2 ≤ ((posed 0 6 3 0).request.a.setWidth 128).toNat / ((posed 0 6 3 0).request.b.setWidth 64).toNat := by
  decide +kernel

theorem witness_Packer : Fmt.f16 ≠ .f80 ∧ Fmt.f128 ≠ .f80 := by decide

theorem witness_PackRoundTrip : 2 ^ 15 - 1 < 2 ^ Fmt.f80.EW ∧ 2 ^ 64 - 1 < 2 ^ Fmt.f80.M ∧ 0 < 2 ^ Fmt.f16.EW ∧ 0 < 2 ^ Fmt.f16.M := by decide +kernel

theorem witness_Squash :
    (expf .f32 (patA .f32 (posed 0x20 0x80000001 0 0)) = 0 ∧ sigf .f32 (patA .f32 (posed 0x20 0x80000001 0 0)) ≠ 0 ∧
      (posed 0x20 0x80000001 0 0).request.b = 0 ∧ (posed 0x20 0x80000001 0 0).ctl.getLsbD 5 = true) ∧
    (expf .f80 (patA .f80 (posed 0 (2 ^ 63) 0 0)) = 0 ∧ sigf .f80 (patA .f80 (posed 0 (2 ^ 63) 0 0)) ≠ 0 ∧
      (posed 0 (2 ^ 63) 0 0).request.b = 0 ∧ (posed 0 (2 ^ 63) 0 0).ctl.getLsbD 5 = false) ∧
    ((0x20 : Word).getLsbD 5 = true ∧ expf .f32 0x80000001 = 0 ∧ sigf .f32 0x80000001 ≠ 0) ∧
    ¬((0x20 : Word).getLsbD 5 = true ∧ expf .f32 0x00800001 = 0 ∧ sigf .f32 0x00800001 ≠ 0) := by decide +kernel

/-- A normalised input at the largest exponent, a subnormal one at exponent 0, one below it, and a F80 input at 24 bits of precision. -/
theorem witness_RoundsCorrectly :
    ∀ p ∈ [(Fmt.f32, posed 0 (2 ^ 33) 253 0), (Fmt.f32, posed 0 1 0 0), (Fmt.f32, posed 0 (2 ^ 34 - 1) 0xFFFFFFFF 0),
      (Fmt.f80, posed 0x85 (2 ^ 126) 0x1000000000 0)],
    LegalFor p.1 p.2.ctl ∧ (∃ mode, modeOf (p.2.ctl.toNat % 8) = some mode ∧
      (inExp p.2 < (p.1.emaxf : ℤ) - 2 ∨
        (inExp p.2 = (p.1.emaxf : ℤ) - 2 ∧ inSig p.1 p.2 + roundInc mode (p.2.request.b.getLsbD 32) (discarded p.2.ctl p.1) < 2 ^ (p.1.N + 1)))) ∧
    (0 : ℝ) ≤ (inSig p.1 p.2 : ℝ) ∧ IsJam (inSig p.1 p.2 : ℝ) (inSig p.1 p.2) ∧ inSig p.1 p.2 < 2 ^ (p.1.N + 1) ∧
    (2 ^ p.1.N ≤ inSig p.1 p.2 ∨ inExp p.2 ≤ 0) ∧ (0 ≤ inExp p.2 ∨ p.2.ctl.getLsbD 4 = false) := by
  intro p hp
  have h : LegalFor p.1 p.2.ctl ∧ (∃ mode, modeOf (p.2.ctl.toNat % 8) = some mode ∧
      (inExp p.2 < (p.1.emaxf : ℤ) - 2 ∨
        (inExp p.2 = (p.1.emaxf : ℤ) - 2 ∧ inSig p.1 p.2 + roundInc mode (p.2.request.b.getLsbD 32) (discarded p.2.ctl p.1) < 2 ^ (p.1.N + 1)))) ∧
    inSig p.1 p.2 < 2 ^ (p.1.N + 1) ∧
    (2 ^ p.1.N ≤ inSig p.1 p.2 ∨ inExp p.2 ≤ 0) ∧ (0 ≤ inExp p.2 ∨ p.2.ctl.getLsbD 4 = false) := by
    simp only [List.mem_cons, List.not_mem_nil, or_false] at hp
    simp only [LegalFor, LegalMode, LegalPrecision]
    rcases hp with rfl | rfl | rfl | rfl
    · exact ⟨by decide +kernel, ⟨.ne, by decide +kernel, by decide +kernel⟩, by decide +kernel⟩
    · exact ⟨by decide +kernel, ⟨.ne, by decide +kernel, by decide +kernel⟩, by decide +kernel⟩
    · exact ⟨by decide +kernel, ⟨.ne, by decide +kernel, by decide +kernel⟩, by decide +kernel⟩
    · exact ⟨by decide +kernel, ⟨.odd, by decide +kernel, by decide +kernel⟩, by decide +kernel⟩
  exact ⟨h.1, h.2.1, by positivity, isJam_natCast _, h.2.2⟩

/-- Overflow by exponent, overflow by carry at the largest one, and truncation there. -/
theorem witness_EngineOverflow :
    LegalFor .f32 (posed 0 (2 ^ 33) 254 0).ctl ∧ modeOf ((posed 0 (2 ^ 33) 254 0).ctl.toNat % 8) = some .ne ∧
    ((Fmt.f32.emaxf : ℤ) - 2 < inExp (posed 0 (2 ^ 33) 254 0)) ∧
    (inExp (posed 0 (2 ^ 34 - 2 ^ 9) 253 0) = (Fmt.f32.emaxf : ℤ) - 2 ∧
      2 ^ (Fmt.f32.N + 1) ≤ inSig .f32 (posed 0 (2 ^ 34 - 2 ^ 9) 253 0) + roundInc .ne false (discarded 0 .f32)) ∧
    (modeOf ((posed 3 (2 ^ 34 - 1) 0x1000000FD 0).ctl.toNat % 8) = some .tp ∧ (posed 3 (2 ^ 34 - 1) 0x1000000FD 0).request.b.getLsbD 32 = true ∧
      inExp (posed 3 (2 ^ 34 - 1) 0x1000000FD 0) = (Fmt.f32.emaxf : ℤ) - 2 ∧ 2 ^ Fmt.f32.N ≤ inSig .f32 (posed 3 (2 ^ 34 - 1) 0x1000000FD 0) ∧
      inSig .f32 (posed 3 (2 ^ 34 - 1) 0x1000000FD 0) < 2 ^ (Fmt.f32.N + 1)) := by
  simp only [LegalFor, LegalMode, LegalPrecision]; decide +kernel

/-- Flushed; exact; inexact and tiny; inexact and, by `CTL.TIN = 1`, not tiny. -/
theorem witness_SubnormalRange :
    (∀ s ∈ [posed 0x10 (2 ^ 33) 0xFFFFFFFF 0, posed 0 (2 ^ 33) 0xFFFFFFFF 0, posed 0 (2 ^ 34 - 1) 0xFFFFFFFF 0, posed 8 (2 ^ 34 - 1) 0xFFFFFFFF 0],
      LegalFor .f32 s.ctl ∧ modeOf (s.ctl.toNat % 8) = some .ne ∧ inExp s < 0) ∧
    (posed 0x10 (2 ^ 33) 0xFFFFFFFF 0).ctl.getLsbD 4 = true ∧ inSig .f32 (posed 0 (2 ^ 33) 0xFFFFFFFF 0) % 2 ^ (1 + discarded 0 .f32) = 0 ∧
    inSig .f32 (posed 0 (2 ^ 34 - 1) 0xFFFFFFFF 0) % 2 ^ (1 + discarded 0 .f32) ≠ 0 ∧ (posed 0 (2 ^ 34 - 1) 0xFFFFFFFF 0).ctl.getLsbD 3 = false ∧
    ¬((posed 8 (2 ^ 34 - 1) 0xFFFFFFFF 0).ctl.getLsbD 3 = false ∨ inExp (posed 8 (2 ^ 34 - 1) 0xFFFFFFFF 0) < -1 ∨
      inSig .f32 (posed 8 (2 ^ 34 - 1) 0xFFFFFFFF 0) + roundInc .ne false (discarded 8 .f32) < 2 ^ (Fmt.f32.N + 1)) := by
  simp only [LegalFor, LegalMode, LegalPrecision]; decide +kernel

theorem witness_EngineFaults :
    ¬LegalFor .f32 (posed 6 0 0 0).ctl ∧ ¬LegalFor .f80 (posed 0xC0 0 0 0).ctl ∧ LegalFor .f80 (posed 0x85 0 0 0).ctl ∧ LegalFor .f32 (posed 0xC5 0 0 0).ctl ∧
    ¬LegalMode (posed 7 0 0 0).ctl ∧ LegalMode (posed 5 0 0 0).ctl := by
  simp only [LegalFor, LegalMode, LegalPrecision]; decide +kernel

theorem witness_NormaliseRoundPack :
    ¬LegalFor .f80 (posed 0xC0 0 0 0).ctl ∧ LegalFor .f32 (posed 0 0 0 0).ctl ∧ inSig .f32 (posed 0 0 0 0) = 0 ∧
    (inSig .f32 (posed 0 1 159 0) ≠ 0 ∧ inSig .f32 (posed 0 1 159 0) < 2 ^ (Fmt.f32.N + 1)) ∧
    inSig .f32 (posed 0 (2 ^ 34 - 1) 0 0) < 2 ^ (Fmt.f32.N + 1) ∧ 2 ^ (Fmt.f32.N + 1) ≤ inSig .f32 (posed 0 (2 ^ 34) 0 0) := by
  simp only [LegalFor, LegalMode, LegalPrecision]; decide +kernel

/-- Magnitudes that round to integers one below the least, one above the greatest, at the least exactly, and in range but not exactly. -/
theorem witness_RoundPackInteger :
    ¬LegalMode (posed 6 0 0 0).ctl ∧ modeOf ((posed 2 0 0 0).ctl.toNat % 8) = some .tz ∧
    (RoundsTo .tz true (2 ^ 31 + 1 + 1 / 2) (2 ^ 31 + 1) ∧ -((2 ^ 31 + 1 : ℕ) : ℤ) < imin .i32) ∧
    (RoundsTo .tz false (2 ^ 31 + 1 / 2) (2 ^ 31) ∧ imax .i32 < ((2 ^ 31 : ℕ) : ℤ)) ∧
    (RoundsTo .tz true (2 ^ 31) (2 ^ 31) ∧ imin .i32 ≤ -((2 ^ 31 : ℕ) : ℤ) ∧ -((2 ^ 31 : ℕ) : ℤ) ≤ imax .i32) ∧
    (RoundsTo .tz true (1 / 4) 0 ∧ imin .u32 ≤ -((0 : ℕ) : ℤ) ∧ -((0 : ℕ) : ℤ) ≤ imax .u32 ∧ (1 / 4 : ℝ) ≠ (0 : ℕ)) := by
  refine ⟨by simp only [LegalMode]; decide +kernel, by decide +kernel, ⟨?_, by decide +kernel⟩, ⟨?_, by decide +kernel⟩, ⟨?_, by decide +kernel⟩, ?_, ?_⟩ <;>
    norm_num [RoundsTo, imin, imax, IntTy.signed, IntTy.width]

theorem witness_NanDetection :
    (((0x7F800001 : Wide).extractLsb' Fmt.f32.M Fmt.f32.EW = BitVec.allOnes Fmt.f32.EW ∧ (0x7F800001 : Wide).extractLsb' 0 Fmt.f32.FB ≠ 0) ∧
      (0x7F800001 : Wide).getLsbD (Fmt.f32.FB - 1) = false) ∧
    (((0x7FC00000 : Wide).extractLsb' Fmt.f32.M Fmt.f32.EW = BitVec.allOnes Fmt.f32.EW ∧ (0x7FC00000 : Wide).extractLsb' 0 Fmt.f32.FB ≠ 0) ∧
      (0x7FC00000 : Wide).getLsbD (Fmt.f32.FB - 1) = true) ∧
    ¬((0x7FFF8000000000000000 : Wide).extractLsb' Fmt.f80.M Fmt.f80.EW = BitVec.allOnes Fmt.f80.EW ∧
      (0x7FFF8000000000000000 : Wide).extractLsb' 0 Fmt.f80.FB ≠ 0) := by decide +kernel

theorem witness_NanAbsorption :
    isNaN .f32 (patA .f32 (posed 7 0x7F800001 0 0)) = true ∧ Row.f2f .f32 .f16 = some .f2fF32F16 ∧
    isNaN .f80 (patB .f80 (posed 7 0 0x7FFF0000000000000001 0)) = true ∧ isNaN .f128 (patC .f128 (posed 7 0 0 (2 ^ 127 - 1))) = true := by decide +kernel

theorem witness_IntToFloat :
    ((posed 0 0 0 0).request.a.setWidth IntTy.u64.width : BitVec IntTy.u64.width).toNat = 0 ∧
    ((posed 0 (2 ^ 31) 0 0).request.a.setWidth IntTy.i32.width : BitVec IntTy.i32.width).toInt = imin .i32 ∧
    ((posed 0 (2 ^ 64 - 1) 0 0).request.a.setWidth IntTy.u64.width : BitVec IntTy.u64.width).toNat ≠ 0 := by decide +kernel

/-- A NaN; a number at a reserved mode; an infinity; and numbers whose rounding is out of range on either side, exact, and inexact. -/
theorem witness_FloatToInt :
    isNaN .f32 (opA .f32 (posed 7 0xFFC00000 0 0)) = true ∧
    (isNaN .f32 (opA .f32 (posed 6 0 0 0)) = false ∧ ¬LegalMode (posed 6 0 0 0).ctl) ∧
    (isNaN .f32 (opA .f32 (posed 2 0xFF800000 0 0)) = false ∧ isInf .f32 (opA .f32 (posed 2 0xFF800000 0 0)) = true ∧
      modeOf ((posed 2 0xFF800000 0 0).ctl.toNat % 8) = some .tz) ∧
    (isInf .f64 (opA .f64 (posed 2 0xC1E0000000200000 0 0)) = false ∧ valQ .f64 (opA .f64 (posed 2 0xC1E0000000200000 0 0)) = -(2 ^ 31 + 1) ∧
      RoundsTo .tz true (2 ^ 31 + 1) (2 ^ 31 + 1) ∧ -((2 ^ 31 + 1 : ℕ) : ℤ) < imin .i32) ∧
    (isInf .f32 (opA .f32 (posed 2 0x4F000000 0 0)) = false ∧ valQ .f32 (opA .f32 (posed 2 0x4F000000 0 0)) = 2 ^ 31 ∧
      RoundsTo .tz false (2 ^ 31) (2 ^ 31) ∧ imax .i32 < ((2 ^ 31 : ℕ) : ℤ)) ∧
    (valQ .f32 (opA .f32 (posed 2 0xCF000000 0 0)) = -2 ^ 31 ∧ RoundsTo .tz true (2 ^ 31) (2 ^ 31) ∧ imin .i32 ≤ -((2 ^ 31 : ℕ) : ℤ)) ∧
    (valQ .f32 (opA .f32 (posed 2 0xBE800000 0 0)) = -1 / 4 ∧ RoundsTo .tz true (1 / 4) 0 ∧ imin .u32 ≤ -((0 : ℕ) : ℤ)) := by
  refine ⟨by decide +kernel, ⟨by decide +kernel, by simp only [LegalMode]; decide +kernel⟩, by decide +kernel,
    ⟨by decide +kernel, by decide +kernel, ?_, by decide +kernel⟩, ⟨by decide +kernel, by decide +kernel, ?_, by decide +kernel⟩,
    ⟨by decide +kernel, ?_, by decide +kernel⟩, by decide +kernel, ?_, by decide +kernel⟩ <;> norm_num [RoundsTo]

theorem witness_FloatToFloat :
    Row.f2f .f64 .f32 = some .f2fF64F32 ∧ Row.f2f .f32 .f80 = some .f2fF32F80 ∧ isNaN .f64 (opA .f64 (posed 0 0x7FF0000000000001 0 0)) = true ∧
    isInf .f64 (opA .f64 (posed 0 0xFFF0000000000000 0 0)) = true ∧
    (isFinite .f64 (opA .f64 (posed 0x20 0x8000000000000001 0 0)) = true ∧ valQ .f64 (opA .f64 (posed 0x20 0x8000000000000001 0 0)) = 0) ∧
    (isFinite .f64 (opA .f64 (posed 0 1 0 0)) = true ∧ valQ .f64 (opA .f64 (posed 0 1 0 0)) ≠ 0) := by decide +kernel

theorem witness_WideningExact :
    Row.f2f .f16 .f32 = some .f2fF16F32 ∧ Row.f2f .f32 .f128 = some .f2fF32F128 ∧ Row.f2f .f64 .f80 = some .f2fF64F80 ∧
    Row.f2f .f64 .f128 = some .f2fF64F128 ∧ Row.f2f .f80 .f128 = some .f2fF80F128 ∧ (posed 5 1 0 0).ctl.getLsbD 4 = false ∧
    LegalMode (posed 5 1 0 0).ctl ∧ isFinite .f16 (patA .f16 (posed 5 1 0 0)) = true ∧ isFinite .f80 (patA .f80 (posed 5 1 0 0)) = true := by
  simp only [LegalMode]; decide +kernel

theorem witness_IntegerRoundTrip : IntTy.u64.width ≤ Fmt.f80.P ∧ IntTy.i32.width ≤ Fmt.f64.P ∧ LegalMode (posed 5 0 0 0).ctl := by
  simp only [LegalMode]; decide +kernel

/-! The arithmetic operations, case by case of their lattices. -/

/-- `1.0`, `2.0`, the infinities, NaNs and zeros of F32. -/
theorem witness_FloatAddSub :
    isNaN .f32 (opA .f32 (posed 0 0x7F800001 0 0)) = true ∧ isNaN .f32 (opB .f32 (posed 0 0 0xFFC00000 0)) = true ∧
    (isInf .f32 (opA .f32 (posed 0 0x7F800000 0xFF800000 0)) = true ∧ isInf .f32 (opB .f32 (posed 0 0x7F800000 0xFF800000 0)) = true ∧
      sign .f32 (opA .f32 (posed 0 0x7F800000 0xFF800000 0)) ≠ (sign .f32 (opB .f32 (posed 0 0x7F800000 0xFF800000 0)) ^^ false) ∧
      sign .f32 (opA .f32 (posed 0 0x7F800000 0xFF800000 0)) = (sign .f32 (opB .f32 (posed 0 0x7F800000 0xFF800000 0)) ^^ true)) ∧
    (isInf .f32 (opA .f32 (posed 0 0x7F800000 1 0)) = true ∧ isFinite .f32 (opB .f32 (posed 0 0x7F800000 1 0)) = true) ∧
    (isFinite .f32 (opA .f32 (posed 0 1 0x7F800000 0)) = true ∧ isInf .f32 (opB .f32 (posed 0 1 0x7F800000 0)) = true) ∧
    (isFinite .f32 (opA .f32 (posed 4 0x3F800000 0x3F800000 0)) = true ∧
      (valQ .f32 (opA .f32 (posed 4 0x3F800000 0x3F800000 0)) : ℝ) + -(valQ .f32 (opB .f32 (posed 4 0x3F800000 0x3F800000 0)) : ℝ) = 0) ∧
    (valQ .f32 (opA .f32 (posed 4 0x3F800000 0x40000000 0)) : ℝ) + -(valQ .f32 (opB .f32 (posed 4 0x3F800000 0x40000000 0)) : ℝ) < 0 ∧
    0 < (valQ .f32 (opA .f32 (posed 4 0x3F800000 0x40000000 0)) : ℝ) + (valQ .f32 (opB .f32 (posed 4 0x3F800000 0x40000000 0)) : ℝ) := by
  have h1 : valQ .f32 (opA .f32 (posed 4 0x3F800000 0x3F800000 0)) = 1 := by decide +kernel
  have h2 : valQ .f32 (opB .f32 (posed 4 0x3F800000 0x3F800000 0)) = 1 := by decide +kernel
  have h3 : valQ .f32 (opA .f32 (posed 4 0x3F800000 0x40000000 0)) = 1 := by decide +kernel
  have h4 : valQ .f32 (opB .f32 (posed 4 0x3F800000 0x40000000 0)) = 2 := by decide +kernel
  rw [h1, h2, h3, h4]
  refine ⟨by decide +kernel, by decide +kernel, by decide +kernel, by decide +kernel, by decide +kernel, ⟨by decide +kernel, ?_⟩, ?_, ?_⟩ <;> norm_num

theorem witness_FloatMultiply :
    isNaN .f64 (opA .f64 (posed 0 0x7FF8000000000000 0 0)) = true ∧
    (isInf .f80 (opA .f80 (posed 0 0x7FFF8000000000000000 (2 ^ 64) 0)) = true ∧ isFinite .f80 (opB .f80 (posed 0 0x7FFF8000000000000000 (2 ^ 64) 0)) = true ∧
      valQ .f80 (opB .f80 (posed 0 0x7FFF8000000000000000 (2 ^ 64) 0)) = 0) ∧
    (isInf .f64 (opA .f64 (posed 0 0x7FF0000000000000 1 0)) = true ∧ isFinite .f64 (opB .f64 (posed 0 0x7FF0000000000000 1 0)) = true ∧
      valQ .f64 (opB .f64 (posed 0 0x7FF0000000000000 1 0)) ≠ 0) ∧
    (isFinite .f64 (opA .f64 (posed 0 0 1 0)) = true ∧ isFinite .f64 (opB .f64 (posed 0 0 1 0)) = true ∧
      |(valQ .f64 (opA .f64 (posed 0 0 1 0)) : ℝ)| * |(valQ .f64 (opB .f64 (posed 0 0 1 0)) : ℝ)| = 0) ∧
    (isFinite .f64 (opA .f64 (posed 0 1 1 0)) = true ∧
      |(valQ .f64 (opA .f64 (posed 0 1 1 0)) : ℝ)| * |(valQ .f64 (opB .f64 (posed 0 1 1 0)) : ℝ)| ≠ 0) := by
  have h1 : valQ .f64 (opA .f64 (posed 0 0 1 0)) = 0 := by decide +kernel
  have h2 : valQ .f64 (opA .f64 (posed 0 1 1 0)) ≠ 0 := by decide +kernel
  have h3 : valQ .f64 (opB .f64 (posed 0 1 1 0)) ≠ 0 := by decide +kernel
  refine ⟨by decide +kernel, by decide +kernel, by decide +kernel, ⟨by decide +kernel, by decide +kernel, by simp [h1]⟩, by decide +kernel, ?_⟩
  simp [h2, h3]

theorem witness_FloatDivide :
    isNaN .f16 (opB .f16 (posed 0 0 0x7E00 0)) = true ∧
    (isInf .f16 (opA .f16 (posed 0 0x7C00 0xFC00 0)) = true ∧ isInf .f16 (opB .f16 (posed 0 0x7C00 0xFC00 0)) = true) ∧
    (isInf .f16 (opA .f16 (posed 0 0x7C00 0 0)) = true ∧ isFinite .f16 (opB .f16 (posed 0 0x7C00 0 0)) = true) ∧
    (isFinite .f16 (opA .f16 (posed 0 1 0x7C00 0)) = true ∧ isInf .f16 (opB .f16 (posed 0 1 0x7C00 0)) = true) ∧
    (isFinite .f16 (opA .f16 (posed 0 1 0x8000 0)) = true ∧ isFinite .f16 (opB .f16 (posed 0 1 0x8000 0)) = true ∧
      valQ .f16 (opA .f16 (posed 0 1 0x8000 0)) ≠ 0 ∧ valQ .f16 (opB .f16 (posed 0 1 0x8000 0)) = 0) ∧
    (isFinite .f16 (opA .f16 (posed 0 0 1 0)) = true ∧ valQ .f16 (opA .f16 (posed 0 0 1 0)) = 0 ∧ valQ .f16 (opB .f16 (posed 0 0 1 0)) ≠ 0) ∧
    (valQ .f16 (opA .f16 (posed 0 1 1 0)) ≠ 0 ∧ valQ .f16 (opB .f16 (posed 0 1 1 0)) ≠ 0) := by decide +kernel

theorem witness_FloatRemainder :
    isNaN .f64 (opA .f64 (posed 0 0x7FF8000000000000 0 0)) = true ∧
    (isInf .f64 (opA .f64 (posed 0 0x7FF0000000000000 0x7FF0000000000000 0)) = true ∧
      isNaN .f64 (opB .f64 (posed 0 0x7FF0000000000000 0x7FF0000000000000 0)) = false) ∧
    (isFinite .f64 (opA .f64 (posed 0 1 0 0)) = true ∧ isFinite .f64 (opB .f64 (posed 0 1 0 0)) = true ∧ valQ .f64 (opB .f64 (posed 0 1 0 0)) = 0) ∧
    isInf .f64 (opB .f64 (posed 0 1 0xFFF0000000000000 0)) = true ∧
    (isFinite .f64 (opA .f64 (posed 0 0x4014000000000000 0x4000000000000000 0)) = true ∧
      valQ .f64 (opA .f64 (posed 0 0x4014000000000000 0x4000000000000000 0)) = 5 ∧
      valQ .f64 (opB .f64 (posed 0 0x4014000000000000 0x4000000000000000 0)) = 2) ∧
    (valQ .f64 (opA .f64 (posed 0 0xC018000000000000 0x4008000000000000 0)) = -6 ∧
      valQ .f64 (opB .f64 (posed 0 0xC018000000000000 0x4008000000000000 0)) = 3) := by decide +kernel

theorem witness_FusedMultiplyAdd :
    isNaN .f32 (opC .f32 (posed 0 0x7F800000 0 0x7FC00005)) = true ∧
    (isInf .f32 (opA .f32 (posed 0 0x7F800000 0x80000000 0x3F800000)) = true ∧ isFinite .f32 (opB .f32 (posed 0 0x7F800000 0x80000000 0x3F800000)) = true ∧
      valQ .f32 (opB .f32 (posed 0 0x7F800000 0x80000000 0x3F800000)) = 0) ∧
    (isInf .f32 (opA .f32 (posed 0 0x7F800000 0x3F800000 0xFF800000)) = true ∧ isInf .f32 (opC .f32 (posed 0 0x7F800000 0x3F800000 0xFF800000)) = true ∧
      valQ .f32 (opB .f32 (posed 0 0x7F800000 0x3F800000 0xFF800000)) ≠ 0 ∧
      sign .f32 (opC .f32 (posed 0 0x7F800000 0x3F800000 0xFF800000)) ≠
        (sign .f32 (opA .f32 (posed 0 0x7F800000 0x3F800000 0xFF800000)) ^^ sign .f32 (opB .f32 (posed 0 0x7F800000 0x3F800000 0xFF800000)))) ∧
    isInf .f32 (opC .f32 (posed 0 0x7F800000 0x3F800000 1)) = false ∧
    (isFinite .f32 (opA .f32 (posed 0 1 1 0xFF800000)) = true ∧ isFinite .f32 (opB .f32 (posed 0 1 1 0xFF800000)) = true ∧
      isInf .f32 (opC .f32 (posed 0 1 1 0xFF800000)) = true) ∧
    (valQ .f32 (opA .f32 (posed 4 0x3F800000 0x3F800000 0xBF800000)) * valQ .f32 (opB .f32 (posed 4 0x3F800000 0x3F800000 0xBF800000)) +
      valQ .f32 (opC .f32 (posed 4 0x3F800000 0x3F800000 0xBF800000)) = 0) ∧
    (valQ .f32 (opA .f32 (posed 4 0x3F800000 0x3F800000 0xC0000000)) * valQ .f32 (opB .f32 (posed 4 0x3F800000 0x3F800000 0xC0000000)) +
      valQ .f32 (opC .f32 (posed 4 0x3F800000 0x3F800000 0xC0000000)) < 0) ∧
    0 < valQ .f32 (opA .f32 (posed 4 0x3F800000 0x3F800000 0)) * valQ .f32 (opB .f32 (posed 4 0x3F800000 0x3F800000 0)) +
      valQ .f32 (opC .f32 (posed 4 0x3F800000 0x3F800000 0)) := by decide +kernel

theorem witness_SquareRoot :
    isNaN .f32 (opA .f32 (posed 0 0xFF800001 0 0)) = true ∧
    (isFinite .f32 (opA .f32 (posed 0 0x80000000 0 0)) = true ∧ valQ .f32 (opA .f32 (posed 0 0x80000000 0 0)) = 0) ∧
    (isInf .f32 (opA .f32 (posed 0 0xFF800000 0 0)) = true ∧ sign .f32 (opA .f32 (posed 0 0xFF800000 0 0)) = true) ∧
    (isFinite .f32 (opA .f32 (posed 0 0x80000001 0 0)) = true ∧ valQ .f32 (opA .f32 (posed 0 0x80000001 0 0)) < 0) ∧
    (isInf .f32 (opA .f32 (posed 0 0x7F800000 0 0)) = true ∧ sign .f32 (opA .f32 (posed 0 0x7F800000 0 0)) = false) ∧
    (isFinite .f32 (opA .f32 (posed 0 1 0 0)) = true ∧ 0 < valQ .f32 (opA .f32 (posed 0 1 0 0))) := by decide +kernel

theorem witness_RoundToIntegral :
    isNaN .f64 (opA .f64 (posed 7 0x7FF8000000000000 0 0)) = true ∧ isInf .f64 (opA .f64 (posed 7 0xFFF0000000000000 0 0)) = true ∧
    (isFinite .f64 (opA .f64 (posed 6 0x4008000000000000 0 0)) = true ∧ ∃ n : ℤ, valQ .f64 (opA .f64 (posed 6 0x4008000000000000 0 0)) = n) ∧
    (isFinite .f64 (opA .f64 (posed 6 0xBFE0000000000000 0 0)) = true ∧ (¬∃ n : ℤ, valQ .f64 (opA .f64 (posed 6 0xBFE0000000000000 0 0)) = n) ∧
      ¬LegalMode (posed 6 0xBFE0000000000000 0 0).ctl) ∧
    ((¬∃ n : ℤ, valQ .f64 (opA .f64 (posed 5 0xBFE0000000000000 0 0)) = n) ∧ modeOf ((posed 5 0xBFE0000000000000 0 0).ctl.toNat % 8) = some .odd) := by
  have half : ∀ k, valQ .f64 (opA .f64 (posed k 0xBFE0000000000000 0 0)) = -1 / 2 → ¬∃ n : ℤ, valQ .f64 (opA .f64 (posed k 0xBFE0000000000000 0 0)) = n := by
    rintro k h ⟨n, hn⟩
    rw [h] at hn
    have h2 : (2 * n : ℚ) = -1 := by rw [← hn]; norm_num
    have : 2 * n = -1 := by exact_mod_cast h2
    omega
  have h3 : valQ .f64 (opA .f64 (posed 6 0x4008000000000000 0 0)) = 3 := by decide +kernel
  exact ⟨by decide +kernel, by decide +kernel, ⟨by decide +kernel, 3, by rw [h3]; norm_num⟩,
    ⟨by decide +kernel, half 6 (by decide +kernel), by simp only [LegalMode]; decide +kernel⟩, half 5 (by decide +kernel), by decide +kernel⟩

theorem witness_ScaleByPowerOfTwo :
    isNaN .f32 (opA .f32 (posed 0 0x7F800001 5 0)) = true ∧ isInf .f32 (opA .f32 (posed 0 0xFF800000 5 0)) = true ∧
    (isFinite .f32 (opA .f32 (posed 0x20 1 5 0)) = true ∧ valQ .f32 (opA .f32 (posed 0x20 1 5 0)) = 0) ∧
    (isFinite .f32 (opA .f32 (posed 0 1 0x80000000 0)) = true ∧ valQ .f32 (opA .f32 (posed 0 1 0x80000000 0)) ≠ 0) := by decide +kernel

/-- A NaN; `1 < 2` and its converse; two zeros of different sign, and one F80 value encoded in two ways, neither less than the other. -/
theorem witness_Comparisons :
    isNaN .f32 (opB .f32 (posed 0 0 0x7FC00000 0)) = true ∧
    (isNaN .f32 (opA .f32 (posed 0 0x3F800000 0x40000000 0)) = false ∧ isNaN .f32 (opB .f32 (posed 0 0x3F800000 0x40000000 0)) = false ∧
      ExtLt .f32 (opA .f32 (posed 0 0x3F800000 0x40000000 0)) (opB .f32 (posed 0 0x3F800000 0x40000000 0))) ∧
    ExtLt .f32 (opB .f32 (posed 0 0x3F800000 0xFF800000 0)) (opA .f32 (posed 0 0x3F800000 0xFF800000 0)) ∧
    (¬ExtLt .f32 (opA .f32 (posed 0 0 0x80000000 0)) (opB .f32 (posed 0 0 0x80000000 0)) ∧
      ¬ExtLt .f32 (opB .f32 (posed 0 0 0x80000000 0)) (opA .f32 (posed 0 0 0x80000000 0))) ∧
    (¬ExtLt .f80 (opA .f80 (posed 0 0x3FFF8000000000000000 0x40004000000000000000 0)) (opB .f80 (posed 0 0x3FFF8000000000000000 0x40004000000000000000 0)) ∧
      ¬ExtLt .f80 (opB .f80 (posed 0 0x3FFF8000000000000000 0x40004000000000000000 0)) (opA .f80 (posed 0 0x3FFF8000000000000000 0x40004000000000000000 0))) := by
  simp only [ExtLt]
  refine ⟨?_, ⟨?_, ?_, ?_⟩, ?_, ⟨?_, ?_⟩, ?_, ?_⟩ <;> decide +kernel

/-- Each clause: one quiet NaN, two NaNs, a signaling one; magnitudes that differ; signs that differ; values that differ; equal values. -/
theorem witness_MinMax :
    ((isNaN .f32 (opA .f32 (posed 0 0x7FC00000 0x3F800000 0)) = true ∧ (opA .f32 (posed 0 0x7FC00000 0x3F800000 0)).getLsbD 22 = true ∧
      isNaN .f32 (opB .f32 (posed 0 0x7FC00000 0x3F800000 0)) = false)) ∧
    ((isNaN .f32 (opB .f32 (posed 0 0x3F800000 0x7FC00000 0)) = true ∧ (opB .f32 (posed 0 0x3F800000 0x7FC00000 0)).getLsbD 22 = true ∧
      isNaN .f32 (opA .f32 (posed 0 0x3F800000 0x7FC00000 0)) = false)) ∧
    (ExtLt .f32 (opB .f32 (posed 0 0x80000000 0x80000001 0)) (opA .f32 (posed 0 0x80000000 0x80000001 0)) ∧
      sign .f32 (opA .f32 (posed 0 0x80000000 0x80000001 0)) = sign .f32 (opB .f32 (posed 0 0x80000000 0x80000001 0))) ∧
    (isNaN .f32 (opA .f32 (posed 0 0x7FC00000 0x7F800001 0)) = true ∧ isNaN .f32 (opB .f32 (posed 0 0x7FC00000 0x7F800001 0)) = true) ∧
    (isNaN .f32 (opA .f32 (posed 0 0x7F800001 0 0)) = true ∧ (opA .f32 (posed 0 0x7F800001 0 0)).getLsbD 22 = false) ∧
    (ExtMagLt .f32 (opB .f32 (posed 0 0xC0400000 0x40000000 0)) (opA .f32 (posed 0 0xC0400000 0x40000000 0)) ∧
      isNaN .f32 (opA .f32 (posed 0 0xC0400000 0x40000000 0)) = false ∧
      ExtLt .f32 (opA .f32 (posed 0 0xC0400000 0x40000000 0)) (opB .f32 (posed 0 0xC0400000 0x40000000 0))) ∧
    (ExtMagLt .f32 (opA .f32 (posed 0 0x3F800000 0x7F800000 0)) (opB .f32 (posed 0 0x3F800000 0x7F800000 0)) ∧
      sign .f32 (opA .f32 (posed 0 0x3F800000 0x7F800000 0)) = sign .f32 (opB .f32 (posed 0 0x3F800000 0x7F800000 0)) ∧
      ExtLt .f32 (opA .f32 (posed 0 0x3F800000 0x7F800000 0)) (opB .f32 (posed 0 0x3F800000 0x7F800000 0))) ∧
    (¬(ExtMagLt .f32 (opA .f32 (posed 0 0 0x80000000 0)) (opB .f32 (posed 0 0 0x80000000 0)) ∨
        ExtMagLt .f32 (opB .f32 (posed 0 0 0x80000000 0)) (opA .f32 (posed 0 0 0x80000000 0))) ∧
      sign .f32 (opA .f32 (posed 0 0 0x80000000 0)) ≠ sign .f32 (opB .f32 (posed 0 0 0x80000000 0))) ∧
    (¬(ExtMagLt .f80 (opA .f80 (posed 0 0x3FFF8000000000000000 0x40004000000000000000 0)) (opB .f80 (posed 0 0x3FFF8000000000000000 0x40004000000000000000 0)) ∨
        ExtMagLt .f80 (opB .f80 (posed 0 0x3FFF8000000000000000 0x40004000000000000000 0)) (opA .f80 (posed 0 0x3FFF8000000000000000 0x40004000000000000000 0))) ∧
      sign .f80 (opA .f80 (posed 0 0x3FFF8000000000000000 0x40004000000000000000 0)) =
        sign .f80 (opB .f80 (posed 0 0x3FFF8000000000000000 0x40004000000000000000 0))) := by
  simp only [ExtLt, ExtMagLt]
  refine ⟨?_, ?_, ⟨?_, ?_⟩, ?_, ?_, ⟨?_, ?_, ?_⟩, ⟨?_, ?_, ?_⟩, ⟨?_, ?_⟩, ?_, ?_⟩ <;> decide +kernel

theorem witness_RoundTowardZeroWrapper : ∃ s s' : State, ReservedZero s ∧ s.halt = false ∧
    s.inputs = (Pseudo.rzWrapper .f32 .i32 0xC0200000 s.ctl).map .request ++ [] ∧
    s' = { s with inputs := .request (Pseudo.ask (Row.f2i .f32 .i32 true) 0xC0200000 0) :: [] } :=
  ⟨{ State.reset with ctl := 7, inputs := (Pseudo.rzWrapper .f32 .i32 0xC0200000 7).map .request }, _,
    ⟨by decide +kernel, by decide +kernel⟩, rfl, (List.append_nil _).symm, rfl⟩

theorem witness_PseudoOperations : State.reset.halt = false := rfl

theorem witness_InstancesIndependent :
    (∃ us u1 u2 : List State, (0 : ℕ) ≠ 1 ∧ stepInstance defaultParams 0 us = .next u1 ∧ stepInstance defaultParams 1 us = .next u2 ∧
      us[0]? = some (presented 0 0 1 2 0)) ∧
    0 < defaultParams.nctx :=
  ⟨⟨[presented 0 0 1 2 0, presented 0 0x81 3 0 0], _, _, by decide, rfl, rfl, rfl⟩, by decide⟩

end Sys2Proof.Machine.Tests
end

section
/-!
SUPPORT. What an instruction and a step that go on leave, said as inversion lemmas over the next state, what they say of the two registers
(spec/10_state.md R24, R30 to R32, R37), and where the engine's operations fault (R25, R29).
-/

namespace Sys2Proof.Machine

/-- `exec_cases` read from the next state, with the two register writes. -/
theorem exec_next_cases {i : Instr} {s t : State} (h : exec i s = .next t) :
    (i = .wrctl ∧ t = answer 0 0 0 (writeCtl (wordA s) s)) ∨ (i = .wrflg ∧ t = answer 0 0 0 (writeFlg (wordA s) s)) ∨
    (∃ r x m, t = answer r x m s) ∨ ∃ c, t = takeFault (.contractViolation c) s := by
  by_cases hc : i = .wrctl
  · subst hc
    exact .inl ⟨rfl, (Host.Outcome.next.inj h).symm⟩
  by_cases hf : i = .wrflg
  · subst hf
    exact .inr (.inl ⟨rfl, (Host.Outcome.next.inj h).symm⟩)
  rcases exec_cases i hc hf s with ⟨r, x, m, ha⟩ | hv
  · exact .inr (.inr (.inl ⟨r, x, m, Host.Outcome.next.inj (h.symm.trans ha)⟩))
  · exact .inr (.inr (.inr ⟨.zeroDivisor, Host.Outcome.next.inj (h.symm.trans hv)⟩))

/-- `step_cases` read from the next state, for the two registers: they stay as they were unless the step takes a reset or runs an instruction. -/
theorem step_registers {s t : State} (h : step s = .next t) :
    (t.ctl = s.ctl ∧ t.flg = s.flg) ∨ (∃ a rest, s.inputs = .reset a :: rest ∧ t = takeReset rest s) ∨
    (∃ q rest i, s.inputs = .request q :: rest ∧ s.halt = false ∧ decode q.cmd = .ok i ∧ exec i (accept q rest s) = .next t) := by
  rcases step_cases s with ⟨-, hs⟩ | ⟨a, rest, hi, hs⟩ | ⟨q, q', rest, -, hs⟩ | ⟨q, rest, -, -, hs⟩ | ⟨q, rest, c, -, -, -, hs⟩ |
    ⟨q, rest, i, hi, hh, hd, hs⟩ <;> rw [hs] at h
  · cases h; exact .inl ⟨rfl, rfl⟩
  · cases h; exact .inr (.inl ⟨a, rest, hi, rfl⟩)
  · cases h
  · cases h; exact .inl ⟨rfl, rfl⟩
  · cases h; exact .inl ⟨rfl, rfl⟩
  · exact .inr (.inr ⟨q, rest, i, hi, hh, hd, h⟩)

/-! ## The reserved bits -/

/-- A value of `k` bits keeps below `2 ^ k` at every width: the bits above it are zero. -/
theorem toNat_setWidth_lt {k : ℕ} (w : ℕ) (v : BitVec k) : (v.setWidth w).toNat < 2 ^ k := by
  rw [BitVec.toNat_setWidth]
  exact (Nat.mod_le _ _).trans_lt v.isLt

/-- R30, R31: a flag mask has seven bits, so ORing it into `FLG` leaves the reserved bits zero. -/
theorem or_flags_lt {f : Word} (hf : f.toNat < 2 ^ 7) (m : Flags) : (f ||| m.setWidth 32).toNat < 2 ^ 7 := by
  rw [BitVec.toNat_or]
  exact Nat.or_lt_two_pow hf (toNat_setWidth_lt 32 m)

theorem exec_keeps_reservedZero {i : Instr} {s t : State} (hs : ReservedZero s) (h : exec i s = .next t) : ReservedZero t := by
  obtain ⟨hctl, hflg⟩ := hs
  rcases exec_next_cases h with ⟨-, rfl⟩ | ⟨-, rfl⟩ | ⟨r, x, m, rfl⟩ | ⟨c, rfl⟩
  · exact ⟨toNat_setWidth_lt 32 _, or_flags_lt hflg 0⟩
  · exact ⟨hctl, or_flags_lt (toNat_setWidth_lt 32 _) 0⟩
  · exact ⟨hctl, or_flags_lt hflg m⟩
  · exact ⟨hctl, hflg⟩

theorem step_keeps_reservedZero {s t : State} (hs : ReservedZero s) (h : step s = .next t) : ReservedZero t := by
  rcases step_registers h with ⟨hctl, hflg⟩ | ⟨a, rest, -, rfl⟩ | ⟨q, rest, i, -, -, -, hx⟩
  · exact ⟨hctl ▸ hs.1, hflg ▸ hs.2⟩
  · exact ⟨toNat_setWidth_lt 32 _, toNat_setWidth_lt 32 _⟩
  · exact exec_keeps_reservedZero (s := accept q rest s) hs hx

/-- Settles O10: by what a step can do, case by case (`step_keeps_reservedZero`). -/
theorem reservedStaysZero : Obligations.ReservedStaysZero := fun _ _ hs h => step_keeps_reservedZero hs h

/-- Settles O11, on the state as written. -/
theorem resetReservedZero : Obligations.ResetReservedZero := ⟨⟨by decide, by decide⟩, rfl⟩

/-! ## Who writes `CTL` -/

theorem exec_ctl {i : Instr} {s t : State} (h : exec i s = .next t) (hi : i ≠ .wrctl) : t.ctl = s.ctl := by
  rcases exec_next_cases h with ⟨hw, -⟩ | ⟨-, rfl⟩ | ⟨r, x, m, rfl⟩ | ⟨c, rfl⟩
  · exact absurd hw hi
  all_goals simp

theorem step_ctl {s t : State} (h : step s = .next t) :
    t.ctl = s.ctl ∨ (∃ q rest, s.inputs = .request q :: rest ∧ s.halt = false ∧ decode q.cmd = .ok .wrctl) ∨
    ∃ a rest, s.inputs = .reset a :: rest := by
  rcases step_registers h with ⟨hctl, -⟩ | ⟨a, rest, hi, -⟩ | ⟨q, rest, i, hi, hh, hd, hx⟩
  · exact .inl hctl
  · exact .inr (.inr ⟨a, rest, hi⟩)
  · by_cases hw : i = .wrctl
    · exact .inr (.inl ⟨q, rest, hi, hh, hw ▸ hd⟩)
    · exact .inl (exec_ctl (s := accept q rest s) hx hw)

/-- Settles O14, from what an instruction (`exec_ctl`) and a step (`step_ctl`) do to `CTL`. -/
theorem onlyWrctlWritesCtl : Obligations.OnlyWrctlWritesCtl :=
  ⟨fun _ _ _ h hi => exec_ctl h hi, fun _ _ h hne => (step_ctl h).resolve_left hne⟩

/-! ## Who lowers a flag -/

theorem exec_flg {i : Instr} {s t : State} (h : exec i s = .next t) (hi : i ≠ .wrflg) : ∃ m : Flags, t.flg = s.flg ||| m.setWidth 32 := by
  rcases exec_next_cases h with ⟨-, rfl⟩ | ⟨hw, -⟩ | ⟨r, x, m, rfl⟩ | ⟨c, rfl⟩
  · exact ⟨0, rfl⟩
  · exact absurd hw hi
  · exact ⟨m, rfl⟩
  · exact ⟨0, by simp⟩

theorem step_flg {s t : State} (h : step s = .next t) :
    (∃ m : Flags, t.flg = s.flg ||| m.setWidth 32) ∨
    (∃ q rest, s.inputs = .request q :: rest ∧ s.halt = false ∧ decode q.cmd = .ok .wrflg) ∨ ∃ a rest, s.inputs = .reset a :: rest := by
  rcases step_registers h with ⟨-, hflg⟩ | ⟨a, rest, hi, -⟩ | ⟨q, rest, i, hi, hh, hd, hx⟩
  · exact .inl ⟨0, by simp [hflg]⟩
  · exact .inr (.inr ⟨a, rest, hi⟩)
  · by_cases hw : i = .wrflg
    · exact .inr (.inl ⟨q, rest, hi, hh, hw ▸ hd⟩)
    · exact .inl (exec_flg (s := accept q rest s) hx hw)

/-! ## The engine's faults -/

theorem readMode_legal {ctl : Word} (h : LegalMode ctl) : ∃ mode, readMode ctl = .ok mode :=
  (modeOf_isSome _ h).imp fun mode hm => readMode_eq ctl mode hm

theorem rpack_legal {ctl : Word} {F : Fmt} (h : LegalFor F ctl) (sgn : Bool) (zExp : ℤ) (zSig : ℕ) : ∃ v, rpack ctl F sgn zExp zSig = .ok v := by
  obtain ⟨mode, hm⟩ := modeOf_isSome _ h.1
  exact ⟨_, rpack_eq ctl F mode h hm sgn zExp zSig⟩

theorem nrpack_legal {ctl : Word} {F : Fmt} (h : LegalFor F ctl) (sgn : Bool) (zExp : ℤ) (zSig : ℕ) : ∃ v, nrpack ctl F sgn zExp zSig = .ok v := by
  obtain ⟨v, hv⟩ := rpack_legal h sgn (zExp - (F.N - msb zSig : ℕ)) (zSig * 2 ^ (F.N - msb zSig))
  exact ⟨_, by rw [nrpack, hv]⟩

theorem nrpack_error {ctl : Word} {F : Fmt} (h : ¬LegalFor F ctl) (sgn : Bool) (zExp : ℤ) (zSig : ℕ) :
    ∃ c, nrpack ctl F sgn zExp zSig = .error c := by
  obtain ⟨c, hc⟩ := rpack_error ctl F h sgn (zExp - (F.N - msb zSig : ℕ)) (zSig * 2 ^ (F.N - msb zSig))
  exact ⟨c, by rw [nrpack, hc]⟩

theorem answers_of_completePat {i : Instr} {s : State} {F : Fmt} {v : Except ContractCause (Flagged Pat)} (h : exec i s = completePat F v s)
    (hv : ∃ w, v = .ok w) : ∃ r m, Answers i s r 0 m := by
  obtain ⟨w, rfl⟩ := hv
  exact ⟨_, _, h⟩

theorem violates_of_completePat {i : Instr} {s : State} {F : Fmt} {v : Except ContractCause (Flagged Pat)} (h : exec i s = completePat F v s)
    (hv : ∃ c, v = .error c) : Violates i s := by
  obtain ⟨c, rfl⟩ := hv
  exact h

/-- Settles O36: the engine passes step S0 exactly with a legal code (`rpack_legal`, `rpack_error`), and its rule ends accordingly. -/
theorem engineFaults : Obligations.EngineFaults := by
  refine ⟨fun F s => ⟨fun hl => ⟨?_, ?_⟩, fun hl => ⟨?_, ?_⟩⟩, fun T s => ⟨fun hl => ?_, fun hl => ?_⟩⟩
  · exact violates_of_completePat (exec_rpack F s) (rpack_error s.ctl F hl _ _ _)
  · exact violates_of_completePat (exec_nrpack F s) (nrpack_error hl _ _ _)
  · exact answers_of_completePat (exec_rpack F s) (rpack_legal hl _ _ _)
  · exact answers_of_completePat (exec_nrpack F s) (nrpack_legal hl _ _ _)
  · have h := exec_rpacki T s
    rw [rpackiOp, rpacki, readMode_error s.ctl hl] at h
    exact h
  · obtain ⟨mode, hm⟩ := readMode_legal hl
    have h := exec_rpacki T s
    rw [rpackiOp, rpacki, hm] at h
    exact ⟨_, _, h⟩

end Sys2Proof.Machine
end

section
/-!
SUPPORT. The rows of the operation map (spec/30_encoding.md R75): a case analysis of the instructions by rows, so that a proof has one case for each operation
and not one for each of the 259 constructors, and the operation code of each row.
-/

namespace Sys2Proof

/-- Every instruction is a row of R75. -/
theorem rowCases {motive : Instr → Prop}
    (add : ∀ n, motive (Row.add n)) (sub : ∀ n, motive (Row.sub n)) (cmpeq : ∀ n, motive (Row.cmpeq n)) (cmpne : ∀ n, motive (Row.cmpne n))
    (cmplt : ∀ n, motive (Row.cmplt n)) (cmple : ∀ n, motive (Row.cmple n)) (shl : ∀ n, motive (Row.shl n)) (shr : ∀ n, motive (Row.shr n))
    (shrj : ∀ n, motive (Row.shrj n)) (clz : ∀ n, motive (Row.clz n)) (mul : ∀ n i, Row.mul n = some i → motive i)
    (mul128x128 : motive .mul128x128) (divest128 : motive .divest128) (divq128 : motive .divq128) (xsign : ∀ F, motive (Row.xsign F))
    (xexp : ∀ F, motive (Row.xexp F)) (xsig : ∀ F, motive (Row.xsig F)) (pack : ∀ F, motive (Row.pack F)) (rpack : ∀ F, motive (Row.rpack F))
    (nrpack : ∀ F, motive (Row.nrpack F)) (rpacki : ∀ T, motive (Row.rpacki T)) (issnan : ∀ F, motive (Row.issnan F))
    (isqnan : ∀ F, motive (Row.isqnan F)) (propnan : ∀ F, motive (Row.propnan F)) (propnan3 : ∀ F b, motive (Row.propnan3 F b))
    (defnan : ∀ F, motive (Row.defnan F)) (i2f : ∀ F T, motive (Row.i2f F T)) (f2i : ∀ F T b, motive (Row.f2i F T b))
    (f2f : ∀ F F' i, Row.f2f F F' = some i → motive i) (fadd : ∀ F, motive (Row.fadd F)) (fsub : ∀ F, motive (Row.fsub F))
    (fmul : ∀ F, motive (Row.fmul F)) (fdiv : ∀ F, motive (Row.fdiv F)) (frem : ∀ F, motive (Row.frem F))
    (fma : ∀ F b b₁ b₂ b₃, motive (Row.fma F b b₁ b₂ b₃)) (fsqrt : ∀ F, motive (Row.fsqrt F)) (frint : ∀ F, motive (Row.frint F))
    (fscalbn : ∀ F, motive (Row.fscalbn F)) (feq : ∀ F b, motive (Row.feq F b)) (fle : ∀ F b, motive (Row.fle F b))
    (flt : ∀ F b, motive (Row.flt F b)) (funord : ∀ F b, motive (Row.funord F b)) (fcmp : ∀ F b, motive (Row.fcmp F b))
    (fminnum : ∀ F, motive (Row.fminnum F)) (fmaxnum : ∀ F, motive (Row.fmaxnum F)) (fminnummag : ∀ F, motive (Row.fminnummag F))
    (fmaxnummag : ∀ F, motive (Row.fmaxnummag F)) (rdctl : motive .rdctl) (wrctl : motive .wrctl) (rdflg : motive .rdflg) (wrflg : motive .wrflg) :
    ∀ i, motive i := by
  intro i
  cases i
  exacts [
    add .w1, add .w2, add .w3, add .w4, sub .w1, sub .w2, sub .w3, sub .w4, cmpeq .w1, cmpeq .w2, cmpeq .w3, cmpeq .w4, cmpne .w1, cmpne .w2,
    cmpne .w3, cmpne .w4, cmplt .w1, cmplt .w2, cmplt .w3, cmplt .w4, cmple .w1, cmple .w2, cmple .w3, cmple .w4, shl .w1, shl .w2, shl .w3,
    shl .w4, shr .w1, shr .w2, shr .w3, shr .w4, shrj .w1, shrj .w2, shrj .w3, shrj .w4, clz .w1, clz .w2, clz .w3, clz .w4, mul .w1 _ rfl,
    mul .w2 _ rfl, mul .w3 _ rfl, mul128x128, divest128, divq128, xsign .f16, xsign .f32, xsign .f64, xsign .f80, xsign .f128, xexp .f16,
    xexp .f32, xexp .f64, xexp .f80, xexp .f128, xsig .f16, xsig .f32, xsig .f64, xsig .f80, xsig .f128, pack .f16, pack .f32, pack .f64,
    pack .f80, pack .f128, rpack .f16, rpack .f32, rpack .f64, rpack .f80, rpack .f128, nrpack .f16, nrpack .f32, nrpack .f64, nrpack .f80,
    nrpack .f128, rpacki .i32, rpacki .i64, rpacki .u32, rpacki .u64, issnan .f16, issnan .f32, issnan .f64, issnan .f80, issnan .f128,
    isqnan .f16, isqnan .f32, isqnan .f64, isqnan .f80, isqnan .f128, propnan .f16, propnan .f32, propnan .f64, propnan .f80, propnan .f128,
    propnan3 .f16 _, propnan3 .f32 _, propnan3 .f64 _, propnan3 .f80 _, propnan3 .f128 _, defnan .f16, defnan .f32, defnan .f64, defnan .f80,
    defnan .f128, i2f .f16 .i32, i2f .f16 .i64, i2f .f16 .u32, i2f .f16 .u64, i2f .f32 .i32, i2f .f32 .i64, i2f .f32 .u32, i2f .f32 .u64,
    i2f .f64 .i32, i2f .f64 .i64, i2f .f64 .u32, i2f .f64 .u64, i2f .f80 .i32, i2f .f80 .i64, i2f .f80 .u32, i2f .f80 .u64, i2f .f128 .i32,
    i2f .f128 .i64, i2f .f128 .u32, i2f .f128 .u64, f2i .f16 .i32 _, f2i .f16 .i64 _, f2i .f16 .u32 _, f2i .f16 .u64 _, f2i .f32 .i32 _,
    f2i .f32 .i64 _, f2i .f32 .u32 _, f2i .f32 .u64 _, f2i .f64 .i32 _, f2i .f64 .i64 _, f2i .f64 .u32 _, f2i .f64 .u64 _, f2i .f80 .i32 _,
    f2i .f80 .i64 _, f2i .f80 .u32 _, f2i .f80 .u64 _, f2i .f128 .i32 _, f2i .f128 .i64 _, f2i .f128 .u32 _, f2i .f128 .u64 _,
    f2f .f16 .f32 _ rfl, f2f .f16 .f64 _ rfl, f2f .f16 .f80 _ rfl, f2f .f16 .f128 _ rfl, f2f .f32 .f16 _ rfl, f2f .f32 .f64 _ rfl,
    f2f .f32 .f80 _ rfl, f2f .f32 .f128 _ rfl, f2f .f64 .f16 _ rfl, f2f .f64 .f32 _ rfl, f2f .f64 .f80 _ rfl, f2f .f64 .f128 _ rfl,
    f2f .f80 .f16 _ rfl, f2f .f80 .f32 _ rfl, f2f .f80 .f64 _ rfl, f2f .f80 .f128 _ rfl, f2f .f128 .f16 _ rfl, f2f .f128 .f32 _ rfl,
    f2f .f128 .f64 _ rfl, f2f .f128 .f80 _ rfl, fadd .f16, fadd .f32, fadd .f64, fadd .f80, fadd .f128, fsub .f16, fsub .f32, fsub .f64,
    fsub .f80, fsub .f128, fmul .f16, fmul .f32, fmul .f64, fmul .f80, fmul .f128, fdiv .f16, fdiv .f32, fdiv .f64, fdiv .f80, fdiv .f128,
    frem .f16, frem .f32, frem .f64, frem .f80, frem .f128, fma .f16 _ _ _ _, fma .f32 _ _ _ _, fma .f64 _ _ _ _, fma .f80 _ _ _ _,
    fma .f128 _ _ _ _, fsqrt .f16, fsqrt .f32, fsqrt .f64, fsqrt .f80, fsqrt .f128, frint .f16, frint .f32, frint .f64, frint .f80, frint .f128,
    fscalbn .f16, fscalbn .f32, fscalbn .f64, fscalbn .f80, fscalbn .f128, feq .f16 _, feq .f32 _, feq .f64 _, feq .f80 _, feq .f128 _,
    fle .f16 _, fle .f32 _, fle .f64 _, fle .f80 _, fle .f128 _, flt .f16 _, flt .f32 _, flt .f64 _, flt .f80 _, flt .f128 _, funord .f16 _,
    funord .f32 _, funord .f64 _, funord .f80 _, funord .f128 _, fcmp .f16 _, fcmp .f32 _, fcmp .f64 _, fcmp .f80 _, fcmp .f128 _, fminnum .f16,
    fminnum .f32, fminnum .f64, fminnum .f80, fminnum .f128, fmaxnum .f16, fmaxnum .f32, fmaxnum .f64, fmaxnum .f80, fmaxnum .f128,
    fminnummag .f16, fminnummag .f32, fminnummag .f64, fminnummag .f80, fminnummag .f128, fmaxnummag .f16, fmaxnummag .f32, fmaxnummag .f64,
    fmaxnummag .f80, fmaxnummag .f128, rdctl, wrctl, rdflg, wrflg]

/-! The operation code of each row. -/

@[simp] theorem opc_add (n : Words) : (Row.add n).command.opc = 0x00 := by cases n <;> rfl
@[simp] theorem opc_sub (n : Words) : (Row.sub n).command.opc = 0x01 := by cases n <;> rfl
@[simp] theorem opc_cmpeq (n : Words) : (Row.cmpeq n).command.opc = 0x02 := by cases n <;> rfl
@[simp] theorem opc_cmpne (n : Words) : (Row.cmpne n).command.opc = 0x03 := by cases n <;> rfl
@[simp] theorem opc_cmplt (n : Words) : (Row.cmplt n).command.opc = 0x04 := by cases n <;> rfl
@[simp] theorem opc_cmple (n : Words) : (Row.cmple n).command.opc = 0x05 := by cases n <;> rfl
@[simp] theorem opc_shl (n : Words) : (Row.shl n).command.opc = 0x06 := by cases n <;> rfl
@[simp] theorem opc_shr (n : Words) : (Row.shr n).command.opc = 0x07 := by cases n <;> rfl
@[simp] theorem opc_shrj (n : Words) : (Row.shrj n).command.opc = 0x08 := by cases n <;> rfl
@[simp] theorem opc_clz (n : Words) : (Row.clz n).command.opc = 0x09 := by cases n <;> rfl
theorem opc_mul (n : Words) (i : Instr) (h : Row.mul n = some i) : i.command.opc = 0x0A := by
  cases n <;> cases h <;> rfl
@[simp] theorem opc_mul128x128 : (Instr.command .mul128x128).opc = 0x0B := rfl
@[simp] theorem opc_divest128 : (Instr.command .divest128).opc = 0x0C := rfl
@[simp] theorem opc_divq128 : (Instr.command .divq128).opc = 0x0D := rfl
@[simp] theorem opc_xsign (F : Fmt) : (Row.xsign F).command.opc = 0x20 := by cases F <;> rfl
@[simp] theorem opc_xexp (F : Fmt) : (Row.xexp F).command.opc = 0x21 := by cases F <;> rfl
@[simp] theorem opc_xsig (F : Fmt) : (Row.xsig F).command.opc = 0x22 := by cases F <;> rfl
@[simp] theorem opc_pack (F : Fmt) : (Row.pack F).command.opc = 0x23 := by cases F <;> rfl
@[simp] theorem opc_rpack (F : Fmt) : (Row.rpack F).command.opc = 0x30 := by cases F <;> rfl
@[simp] theorem opc_nrpack (F : Fmt) : (Row.nrpack F).command.opc = 0x31 := by cases F <;> rfl
@[simp] theorem opc_rpacki (T : IntTy) : (Row.rpacki T).command.opc = 0x32 := by cases T <;> rfl
@[simp] theorem opc_issnan (F : Fmt) : (Row.issnan F).command.opc = 0x40 := by cases F <;> rfl
@[simp] theorem opc_isqnan (F : Fmt) : (Row.isqnan F).command.opc = 0x41 := by cases F <;> rfl
@[simp] theorem opc_propnan (F : Fmt) : (Row.propnan F).command.opc = 0x42 := by cases F <;> rfl
@[simp] theorem opc_propnan3 (F : Fmt) (b : Bool) : (Row.propnan3 F b).command.opc = 0x43 := by cases F <;> rfl
@[simp] theorem opc_defnan (F : Fmt) : (Row.defnan F).command.opc = 0x44 := by cases F <;> rfl
@[simp] theorem opc_i2f (F : Fmt) (T : IntTy) : (Row.i2f F T).command.opc = 0x50 := by cases F <;> cases T <;> rfl
@[simp] theorem opc_f2i (F : Fmt) (T : IntTy) (b : Bool) : (Row.f2i F T b).command.opc = 0x51 := by cases F <;> cases T <;> rfl
theorem opc_f2f (F F' : Fmt) (i : Instr) (h : Row.f2f F F' = some i) : i.command.opc = 0x52 := by
  cases F <;> cases F' <;> cases h <;> rfl
@[simp] theorem opc_fadd (F : Fmt) : (Row.fadd F).command.opc = 0x60 := by cases F <;> rfl
@[simp] theorem opc_fsub (F : Fmt) : (Row.fsub F).command.opc = 0x61 := by cases F <;> rfl
@[simp] theorem opc_fmul (F : Fmt) : (Row.fmul F).command.opc = 0x62 := by cases F <;> rfl
@[simp] theorem opc_fdiv (F : Fmt) : (Row.fdiv F).command.opc = 0x63 := by cases F <;> rfl
@[simp] theorem opc_frem (F : Fmt) : (Row.frem F).command.opc = 0x64 := by cases F <;> rfl
@[simp] theorem opc_fma (F : Fmt) (b b₁ b₂ b₃ : Bool) : (Row.fma F b b₁ b₂ b₃).command.opc = 0x65 := by cases F <;> rfl
@[simp] theorem opc_fsqrt (F : Fmt) : (Row.fsqrt F).command.opc = 0x66 := by cases F <;> rfl
@[simp] theorem opc_frint (F : Fmt) : (Row.frint F).command.opc = 0x67 := by cases F <;> rfl
@[simp] theorem opc_fscalbn (F : Fmt) : (Row.fscalbn F).command.opc = 0x68 := by cases F <;> rfl
@[simp] theorem opc_feq (F : Fmt) (b : Bool) : (Row.feq F b).command.opc = 0x70 := by cases F <;> rfl
@[simp] theorem opc_fle (F : Fmt) (b : Bool) : (Row.fle F b).command.opc = 0x71 := by cases F <;> rfl
@[simp] theorem opc_flt (F : Fmt) (b : Bool) : (Row.flt F b).command.opc = 0x72 := by cases F <;> rfl
@[simp] theorem opc_funord (F : Fmt) (b : Bool) : (Row.funord F b).command.opc = 0x73 := by cases F <;> rfl
@[simp] theorem opc_fcmp (F : Fmt) (b : Bool) : (Row.fcmp F b).command.opc = 0x74 := by cases F <;> rfl
@[simp] theorem opc_fminnum (F : Fmt) : (Row.fminnum F).command.opc = 0x75 := by cases F <;> rfl
@[simp] theorem opc_fmaxnum (F : Fmt) : (Row.fmaxnum F).command.opc = 0x76 := by cases F <;> rfl
@[simp] theorem opc_fminnummag (F : Fmt) : (Row.fminnummag F).command.opc = 0x77 := by cases F <;> rfl
@[simp] theorem opc_fmaxnummag (F : Fmt) : (Row.fmaxnummag F).command.opc = 0x78 := by cases F <;> rfl
@[simp] theorem opc_rdctl : (Instr.command .rdctl).opc = 0x80 := rfl
@[simp] theorem opc_wrctl : (Instr.command .wrctl).opc = 0x81 := rfl
@[simp] theorem opc_rdflg : (Instr.command .rdflg).opc = 0x82 := rfl
@[simp] theorem opc_wrflg : (Instr.command .wrflg).opc = 0x83 := rfl

end Sys2Proof
end

section
/-!
SUPPORT. What an instruction reads and writes (spec/10_state.md R20, R31, R33): each is a RULE, a function of `CTL` and of the port bits that
spec/30_encoding.md R75 lists, whose results lie in the bits that R75 lists. The register accesses apart, `FLG` is no argument of the rule.
-/

namespace Sys2Proof.Machine

/-! ## Masks of low bits -/

theorem getLsbD_low {w : ℕ} (k j : ℕ) : (low k : BitVec w).getLsbD j = (decide (j < w) && decide (j < k)) := by
  rw [low, BitVec.getLsbD_ofNat, Nat.testBit_two_pow_sub_one]

theorem getLsbD_eq_of_and_low {w k j : ℕ} {v v' : BitVec w} (h : v &&& low k = v' &&& low k) (hj : j < k) : v.getLsbD j = v'.getLsbD j := by
  by_cases hw : j < w
  · have := congrArg (BitVec.getLsbD · j) h
    simpa only [BitVec.getLsbD_and, getLsbD_low, hj, hw, decide_true, Bool.and_true] using this
  · rw [BitVec.getLsbD_of_ge v j (by omega), BitVec.getLsbD_of_ge v' j (by omega)]

theorem setWidth_eq_of_and_low {w k : ℕ} {v v' : BitVec w} (h : v &&& low k = v' &&& low k) : v.setWidth k = v'.setWidth k := by
  apply BitVec.eq_of_getLsbD_eq
  intro j hj
  rw [BitVec.getLsbD_setWidth, BitVec.getLsbD_setWidth, getLsbD_eq_of_and_low h hj]

theorem and_not_low {w k : ℕ} {v : BitVec w} (h : v.toNat < 2 ^ k) : v &&& ~~~(low k) = 0 := by
  apply BitVec.eq_of_getLsbD_eq
  intro j hw
  by_cases hj : j < k
  · simp [getLsbD_low, hj, hw]
  · have hv : v.getLsbD j = false := Nat.testBit_lt_two_pow (h.trans_le (Nat.pow_le_pow_right (by norm_num) (by omega)))
    simp [hv]

/-! ## The size of a result -/

theorem outPat_lt (F : Fmt) (p : Pat) : (outPat F p).toNat < 2 ^ F.K := toNat_setWidth_lt 256 _

theorem outBits_lt (k n : ℕ) : (outBits k n).toNat < 2 ^ k := by
  rw [outBits, BitVec.toNat_ofNat]
  exact (Nat.mod_le _ _).trans_lt (Nat.mod_lt _ (by positivity))

theorem outBool_lt (b : Bool) : (outBool b).toNat < 2 ^ 1 := by cases b <;> decide

/-! ## Reading only what R75 lists -/

/-- `w` reads of a state no more than `CTL` and the port bits that R75 lists for the instruction. -/
def ReadsOnly (i : Instr) {α : Type} (w : State → α) : Prop :=
  ∀ s s' : State, s.ctl = s'.ctl → SameOperands i s.request s'.request → w s = w s'

theorem sameOperands_refl (i : Instr) (q : Request) : SameOperands i q q := ⟨rfl, rfl, rfl⟩

section
variable {i : Instr} {s s' : State} (h : SameOperands i s.request s'.request)
include h

theorem SameOperands.bitsA {k : ℕ} (hm : (portMasks i.command).a = low k) : bitsA k s = bitsA k s' := by
  rw [bitsA_eq, bitsA_eq, setWidth_eq_of_and_low (hm ▸ h.1)]

theorem SameOperands.bitsB {k : ℕ} (hm : (portMasks i.command).b = low k) : bitsB k s = bitsB k s' := by
  rw [bitsB_eq, bitsB_eq, setWidth_eq_of_and_low (hm ▸ h.2.1)]

theorem SameOperands.patA {F : Fmt} (hm : (portMasks i.command).a = low F.K) : patA F s = patA F s' :=
  congrArg (BitVec.setWidth 128) (setWidth_eq_of_and_low (hm ▸ h.1))

theorem SameOperands.patB {F : Fmt} (hm : (portMasks i.command).b = low F.K) : patB F s = patB F s' :=
  congrArg (BitVec.setWidth 128) (setWidth_eq_of_and_low (hm ▸ h.2.1))

theorem SameOperands.patC {F : Fmt} (hm : (portMasks i.command).c = low F.K) : patC F s = patC F s' :=
  congrArg (BitVec.setWidth 128) (setWidth_eq_of_and_low (hm ▸ h.2.2))

theorem SameOperands.getLsbD_b {k j : ℕ} (hm : (portMasks i.command).b = low k) (hj : j < k) :
    s.request.b.getLsbD j = s'.request.b.getLsbD j := getLsbD_eq_of_and_low (hm ▸ h.2.1) hj

theorem SameOperands.lowB {k j : ℕ} (hm : (portMasks i.command).b = low k) (hj : j ≤ k) :
    s.request.b.setWidth j = s'.request.b.setWidth j := by
  apply BitVec.eq_of_getLsbD_eq
  intro l hl
  rw [BitVec.getLsbD_setWidth, BitVec.getLsbD_setWidth, SameOperands.getLsbD_b h hm (by omega)]

end

/-! ## Rules -/

/-- The instruction ends with the outcome given: a contract violation, or an answer with results on `R` and `X` and flags. -/
def Ends (i : Instr) (s : State) : Except ContractCause (Flagged (Wide × Dword)) → Prop
  | .error _ => Violates i s
  | .ok o => Answers i s o.val.1 o.val.2 o.flags

/-- The results `r` and `x` have no bit outside those that R75 lists as written. -/
def Confined (i : Instr) (r : Wide) (x : Dword) : Prop := r &&& ~~~(portMasks i.command).r = 0 ∧ x &&& ~~~(portMasks i.command).x = 0

/-- `v` is the rule of the instruction: in every state it ends as `v` says, reading no other bit and writing no other bit than R75 lists. -/
structure IsRule (i : Instr) (v : State → Except ContractCause (Flagged (Wide × Dword))) : Prop where
  ends : ∀ s, Ends i s (v s)
  reads : ReadsOnly i v
  writes : ∀ s o, v s = .ok o → Confined i o.val.1 o.val.2

theorem confined_of_lt {i : Instr} {kr kx : ℕ} {r : Wide} {x : Dword} (hr : (portMasks i.command).r = low kr) (hx : (portMasks i.command).x = low kx)
    (hrk : r.toNat < 2 ^ kr) (hxk : x.toNat < 2 ^ kx) : Confined i r x :=
  ⟨hr ▸ and_not_low hrk, hx ▸ and_not_low hxk⟩

/-- A rule that always answers. -/
theorem rule_answer {i : Instr} {r : State → Wide} {x : State → Dword} {m : State → Flags}
    (he : ∀ s, exec i s = .next (answer (r s) (x s) (m s) s)) (hv : ReadsOnly i fun s => (r s, x s, m s)) (hw : ∀ s, Confined i (r s) (x s)) :
    ∃ v, IsRule i v := by
  refine ⟨fun s => .ok ⟨(r s, x s), m s⟩, he, fun s s' hc h => ?_, fun s o ho => ?_⟩
  · exact congrArg (fun o : Wide × Dword × Flags => Except.ok (Flagged.mk (o.1, o.2.1) o.2.2)) (hv s s' hc h)
  · cases ho; exact hw s

/-- A rule that ends with `complete`: nothing on `X`. -/
theorem rule_complete {i : Instr} {w : State → Except ContractCause (Flagged Wide)} {k : ℕ} (hr : (portMasks i.command).r = low k)
    (he : ∀ s, exec i s = complete (w s) s) (hv : ReadsOnly i w) (hw : ∀ s o, w s = .ok o → o.val.toNat < 2 ^ k) : ∃ v, IsRule i v := by
  refine ⟨fun s => (w s).map (Flagged.map (·, 0)), fun s => ?_, fun s s' hc h => by simp only [hv s s' hc h], fun s o ho => ?_⟩
  · have := he s
    rcases hs : w s with c | o <;> rw [hs] at this <;> exact this
  · rcases hs : w s with c | o' <;> rw [hs] at ho <;> cases ho
    exact ⟨hr ▸ and_not_low (hw s o' hs), BitVec.zero_and⟩

theorem rule_completePat {i : Instr} {w : State → Except ContractCause (Flagged Pat)} {F : Fmt} (hr : (portMasks i.command).r = low F.K)
    (he : ∀ s, exec i s = completePat F (w s) s) (hv : ReadsOnly i w) : ∃ v, IsRule i v := by
  refine rule_complete hr he (fun s s' hc h => by simp only [hv s s' hc h]) fun s o ho => ?_
  rcases hs : w s with c | o' <;> rw [hs] at ho <;> cases ho
  exact outPat_lt F _

theorem rule_completeInt {i : Instr} {w : State → Except ContractCause (Flagged ℕ)} {T : IntTy} (hr : (portMasks i.command).r = low T.width)
    (he : ∀ s, exec i s = completeInt T (w s) s) (hv : ReadsOnly i w) : ∃ v, IsRule i v := by
  refine rule_complete hr he (fun s s' hc h => by simp only [hv s s' hc h]) fun s o ho => ?_
  rcases hs : w s with c | o' <;> rw [hs] at ho <;> cases ho
  exact outBits_lt _ _

/-! ## The rules by the shape of their operands -/

section
variable {i : Instr} {F : Fmt}

/-- Two operands of `ka` and `kb` bits, results of `kr` and `kx` bits, no flag. -/
theorem rule_carry {ka kb kr kx : ℕ} (f : ℕ → ℕ → Wide × Dword) (hm : portMasks i.command = ⟨low ka, low kb, 0, low kr, low kx⟩)
    (hf : ∀ a < 2 ^ ka, ∀ b < 2 ^ kb, (f a b).1.toNat < 2 ^ kr ∧ (f a b).2.toNat < 2 ^ kx)
    (he : ∀ s, exec i s = .next (answer (f (bitsA ka s) (bitsB kb s)).1 (f (bitsA ka s) (bitsB kb s)).2 0 s)) : ∃ v, IsRule i v := by
  refine rule_answer he (fun s s' _ h => by dsimp only; rw [h.bitsA (by rw [hm]), h.bitsB (by rw [hm])]) fun s => ?_
  obtain ⟨hr, hx⟩ := hf _ (Nat.mod_lt _ (by positivity) : bitsA ka s < _) _ (Nat.mod_lt _ (by positivity) : bitsB kb s < _)
  exact confined_of_lt (by rw [hm]) (by rw [hm]) hr hx

/-- Two operands of `ka` and `kb` bits, a result of `kr` bits and nothing on `X`, no flag. -/
theorem rule_binary {ka kb kr : ℕ} (f : ℕ → ℕ → Wide) (hm : portMasks i.command = ⟨low ka, low kb, 0, low kr, 0⟩)
    (hf : ∀ a b, (f a b).toNat < 2 ^ kr) (he : ∀ s, exec i s = .next (answer (f (bitsA ka s) (bitsB kb s)) 0 0 s)) : ∃ v, IsRule i v :=
  rule_carry (kx := 0) (fun a b => (f a b, 0)) hm (fun a _ b _ => ⟨hf a b, Nat.one_pos⟩) he

/-- One pattern, a result of `kr` bits, no flag: the accessors and the NaN tests. -/
theorem rule_inspect {kr : ℕ} (f : Pat → Wide) (hm : portMasks i.command = ⟨low F.K, 0, 0, low kr, 0⟩) (hf : ∀ a, (f a).toNat < 2 ^ kr)
    (he : ∀ s, exec i s = .next (answer (f (patA F s)) 0 0 s)) : ∃ v, IsRule i v :=
  rule_answer he (fun s s' _ h => by dsimp only; rw [h.patA (by rw [hm])]) fun s => ⟨by rw [hm]; exact and_not_low (hf _), BitVec.zero_and⟩

/-- Two patterns compared, a verdict of `kr` bits. -/
theorem rule_compare {kr : ℕ} {q : Bool} (f : Verdict → Wide) (hm : portMasks i.command = ⟨low F.K, low F.K, 0, low kr, 0⟩)
    (hf : ∀ v, (f v).toNat < 2 ^ kr)
    (he : ∀ s, exec i s = .next (answer (f (compare nanPolicy s.ctl F q (patA F s) (patB F s)).val) 0
      (compare nanPolicy s.ctl F q (patA F s) (patB F s)).flags s)) : ∃ v, IsRule i v :=
  rule_answer he (fun s s' hc h => by dsimp only; rw [hc, h.patA (by rw [hm]), h.patB (by rw [hm])])
    fun s => ⟨by rw [hm]; exact and_not_low (hf _), BitVec.zero_and⟩

/-- One pattern of format `F`, a result of format `F'`. -/
theorem rule_patA {F' : Fmt} (f : Word → Pat → Except ContractCause (Flagged Pat)) (hm : portMasks i.command = ⟨low F.K, 0, 0, low F'.K, 0⟩)
    (he : ∀ s, exec i s = completePat F' (f s.ctl (patA F s)) s) : ∃ v, IsRule i v :=
  rule_completePat (by rw [hm]) he fun s s' hc h => by rw [hc, h.patA (by rw [hm])]

theorem rule_patAB (f : Word → Pat → Pat → Except ContractCause (Flagged Pat)) (hm : portMasks i.command = ⟨low F.K, low F.K, 0, low F.K, 0⟩)
    (he : ∀ s, exec i s = completePat F (f s.ctl (patA F s) (patB F s)) s) : ∃ v, IsRule i v :=
  rule_completePat (by rw [hm]) he fun s s' hc h => by rw [hc, h.patA (by rw [hm]), h.patB (by rw [hm])]

theorem rule_patABC (f : Word → Pat → Pat → Pat → Except ContractCause (Flagged Pat))
    (hm : portMasks i.command = ⟨low F.K, low F.K, low F.K, low F.K, 0⟩)
    (he : ∀ s, exec i s = completePat F (f s.ctl (patA F s) (patB F s) (patC F s)) s) : ∃ v, IsRule i v :=
  rule_completePat (by rw [hm]) he fun s s' hc h => by rw [hc, h.patA (by rw [hm]), h.patB (by rw [hm]), h.patC (by rw [hm])]

/-- An engine input: significand, exponent and sign. -/
theorem rule_engine (f : Word → Bool → ℤ → ℕ → Except ContractCause (Flagged Pat))
    (hm : portMasks i.command = ⟨low F.W, low 33, 0, low F.K, 0⟩)
    (he : ∀ s, exec i s = completePat F (f s.ctl (signB s) (sint32B s) (bitsA F.W s)) s) : ∃ v, IsRule i v :=
  rule_completePat (by rw [hm]) he fun s s' hc h => by
    rw [hc, h.bitsA (by rw [hm]), signB, sint32B, h.getLsbD_b (k := 33) (by rw [hm]) (by norm_num), h.lowB (k := 33) (by rw [hm]) (by norm_num)]
    rfl

/-- A divide (R131, R133): a contract violation where its precondition fails, else the two results `f` of dividend and divisor, no flag. -/
def Divides (i : Instr) (f : ℕ → ℕ → Wide × Dword) : Prop :=
  ∀ s, (∃ c, divideFault (bitsA 128 s) (bitsB 64 s) = some c ∧ exec i s = .next (takeFault (.contractViolation c) s)) ∨
    (divideFault (bitsA 128 s) (bitsB 64 s) = none ∧
      exec i s = .next (answer (f (bitsA 128 s) (bitsB 64 s)).1 (f (bitsA 128 s) (bitsB 64 s)).2 0 s))

theorem divides_divest128 : Divides .divest128 fun a b => (outBits 64 (a / b - divestErr Config.divestErr a b), 0) :=
  divEstimate_cases Config.divestErr

theorem divides_divq128 : Divides .divq128 fun a b => (outBits 64 (a / b), BitVec.ofNat 64 (a % b)) := divQuotient_cases

theorem Divides.rule {f : ℕ → ℕ → Wide × Dword} {kx : ℕ} (he : Divides i f) (hm : portMasks i.command = ⟨low 128, low 64, 0, low 64, low kx⟩)
    (hf : ∀ a b, (f a b).1.toNat < 2 ^ 64 ∧ (f a b).2.toNat < 2 ^ kx) : ∃ v, IsRule i v := by
  refine ⟨fun s => match divideFault (bitsA 128 s) (bitsB 64 s) with
    | some c => .error c
    | none => .ok ⟨f (bitsA 128 s) (bitsB 64 s), 0⟩, fun s => ?_, fun s s' _ h => ?_, fun s o ho => ?_⟩
  · rcases he s with ⟨c, hd, hx⟩ | ⟨hd, hx⟩ <;> rw [hd] <;> exact hx
  · rw [h.bitsA (by rw [hm]), h.bitsB (by rw [hm])]
  · rcases hd : divideFault (bitsA 128 s) (bitsB 64 s) with _ | c <;> rw [hd] at ho <;> cases ho
    exact confined_of_lt (by rw [hm]) (by rw [hm]) (hf _ _).1 (hf _ _).2

end

/-- The carry out of an addition is one bit. -/
theorem carry_lt {k a b : ℕ} (ha : a < 2 ^ k) (hb : b < 2 ^ k) : (BitVec.ofNat 64 ((a + b) / 2 ^ k)).toNat < 2 ^ 1 := by
  have : (a + b) / 2 ^ k < 2 := by rw [Nat.div_lt_iff_lt_mul (by positivity)]; omega
  rw [BitVec.toNat_ofNat]
  exact (Nat.mod_le _ _).trans_lt this

theorem packSig_eq (F : Fmt) (s : State) : packSig F s = bitsA (if F.explicitBit then 64 else F.K) s := by cases F <;> rfl

theorem rule_pack (F : Fmt) : ∃ v, IsRule (Row.pack F) v := by
  have hm : portMasks (Row.pack F).command = ⟨low (if F.explicitBit then 64 else F.K), low 33, 0, low F.K, 0⟩ := by cases F <;> rfl
  refine rule_answer (exec_pack F) (fun s s' _ h => ?_) fun s => ⟨by rw [hm]; exact and_not_low (outPat_lt _ _), BitVec.zero_and⟩
  have hA : packSig F s = packSig F s' := by rw [packSig_eq, packSig_eq, h.bitsA (by rw [hm])]
  have hE : uint32B s = uint32B s' := by
    rw [uint32B, uint32B, bitsB_eq, bitsB_eq, h.lowB (k := 33) (by rw [hm]) (by norm_num)]
  have hS : signB s = signB s' := h.getLsbD_b (k := 33) (by rw [hm]) (by norm_num)
  dsimp only
  rw [hA, hE, hS]

theorem rule_rpacki (T : IntTy) : ∃ v, IsRule (Row.rpacki T) v := by
  have hm : portMasks (Row.rpacki T).command = ⟨low 128, 1 <<< 32, 0, low T.width, 0⟩ := by cases T <;> rfl
  refine rule_completeInt (by rw [hm]) (exec_rpacki T) fun s s' hc h => ?_
  have hS : signB s = signB s' := by
    have hb := h.2.1
    rw [hm] at hb
    simpa [signB] using congrArg (BitVec.getLsbD · 32) hb
  rw [hc, hS, h.bitsA (by rw [hm])]

/-- Every instruction but the register writes and `RDFLG` has a rule; the cases follow the rows of R75. -/
theorem exists_rule (i : Instr) (hc : i ≠ .wrctl) (hr : i ≠ .rdflg) (hf : i ≠ .wrflg) : ∃ v, IsRule i v := by
  induction i using rowCases with
  | add n =>
    exact rule_carry (fun a b => (outBits n.bits (a + b), BitVec.ofNat 64 ((a + b) / 2 ^ n.bits))) (kx := 1) (kr := n.bits) (by cases n <;> rfl)
      (fun a ha b hb => ⟨outBits_lt _ _, carry_lt ha hb⟩) (exec_add n)
  | sub n =>
    exact rule_carry (fun a b => (outBits n.bits (((a : ℤ) - b) % (2 ^ n.bits : ℕ)).toNat, if a < b then 1 else 0)) (by cases n <;> rfl)
      (fun a _ b _ => ⟨outBits_lt _ _, by dsimp only; split_ifs <;> decide⟩) (exec_sub n)
  | cmpeq n => exact rule_binary (fun a b => outBool (a == b)) (by cases n <;> rfl) (fun _ _ => outBool_lt _) (exec_cmpeq n)
  | cmpne n => exact rule_binary (fun a b => outBool (a != b)) (by cases n <;> rfl) (fun _ _ => outBool_lt _) (exec_cmpne n)
  | cmplt n => exact rule_binary (fun a b => outBool (decide (a < b))) (by cases n <;> rfl) (fun _ _ => outBool_lt _) (exec_cmplt n)
  | cmple n => exact rule_binary (fun a b => outBool (decide (a ≤ b))) (by cases n <;> rfl) (fun _ _ => outBool_lt _) (exec_cmple n)
  | shl n =>
    exact rule_binary (fun a c => outBits n.bits (if n.bits ≤ c then 0 else a * 2 ^ c)) (by cases n <;> rfl) (fun _ _ => outBits_lt _ _) (exec_shl n)
  | shr n =>
    exact rule_binary (fun a c => outBits n.bits (if n.bits ≤ c then 0 else a / 2 ^ c)) (by cases n <;> rfl) (fun _ _ => outBits_lt _ _) (exec_shr n)
  | shrj n => exact rule_binary (fun a c => outBits n.bits (shrjam a c)) (by cases n <;> rfl) (fun _ _ => outBits_lt _ _) (exec_shrj n)
  | clz n =>
    exact rule_binary (kb := 0) (fun a _ => outBits 9 (if a = 0 then n.bits else n.bits - 1 - msb a)) (by cases n <;> rfl)
      (fun _ _ => outBits_lt _ _) (exec_clz n)
  | mul n i h =>
    exact rule_binary (fun a b => outBits (n.bits + 64) (a * b)) (by cases n <;> cases h <;> rfl) (fun _ _ => outBits_lt _ _) (exec_mul n i h)
  | mul128x128 => exact rule_binary (fun a b => outBits 256 (a * b)) rfl (fun _ _ => outBits_lt _ _) exec_mul128x128
  | divest128 => exact divides_divest128.rule (kx := 0) rfl fun _ _ => ⟨outBits_lt _ _, Nat.one_pos⟩
  | divq128 => exact divides_divq128.rule rfl fun _ _ => ⟨outBits_lt _ _, BitVec.isLt _⟩
  | xsign F => exact rule_inspect (fun a => outBool (sign F a)) (by cases F <;> rfl) (fun _ => outBool_lt _) (exec_xsign F)
  | xexp F =>
    have hEW : F.EW ≤ 15 := by cases F <;> decide
    exact rule_inspect (kr := 15) (fun a => outBits F.EW (expf F a)) (by cases F <;> rfl)
      (fun _ => (outBits_lt _ _).trans_le (Nat.pow_le_pow_right (by norm_num) hEW)) (exec_xexp F)
  | xsig F => exact rule_inspect (fun a => outBits F.M (sigf F a)) (by cases F <;> rfl) (fun _ => outBits_lt _ _) (exec_xsig F)
  | pack F => exact rule_pack F
  | rpack F => exact rule_engine (rpack · F) (by cases F <;> rfl) (exec_rpack F)
  | nrpack F => exact rule_engine (nrpack · F) (by cases F <;> rfl) (exec_nrpack F)
  | rpacki T => exact rule_rpacki T
  | issnan F => exact rule_inspect (fun a => outBool (isSNaN nanPolicy F a)) (by cases F <;> rfl) (fun _ => outBool_lt _) (exec_issnan F)
  | isqnan F => exact rule_inspect (fun a => outBool (isQNaN nanPolicy F a)) (by cases F <;> rfl) (fun _ => outBool_lt _) (exec_isqnan F)
  | propnan F => exact rule_patAB (fun _ a b => .ok (propNaN2 nanPolicy F a b)) (by cases F <;> rfl) (exec_propnan F)
  | propnan3 F z => exact rule_patABC (fun _ a b c => .ok (propNaN3 nanPolicy F a b c z)) (by cases F <;> rfl) (exec_propnan3 F z)
  | defnan F => exact rule_completePat (by cases F <;> rfl) (exec_defnan F) fun _ _ _ _ => rfl
  | i2f F T =>
    have hm : portMasks (Row.i2f F T).command = ⟨low T.width, 0, 0, low F.K, 0⟩ := by cases F <;> cases T <;> rfl
    exact rule_completePat (by rw [hm]) (exec_i2f F T) fun s s' hc h => by rw [hc, h.bitsA (by rw [hm])]
  | f2i F T rz =>
    have hm : portMasks (Row.f2i F T rz).command = ⟨low F.K, 0, 0, low T.width, 0⟩ := by cases F <;> cases T <;> rfl
    exact rule_completeInt (by rw [hm]) (exec_f2i F T rz) fun s s' hc h => by rw [hc, h.patA (by rw [hm])]
  | f2f F F' i h => exact rule_patA (F := F) (f2f nanPolicy · F F') (by cases F <;> cases F' <;> cases h <;> rfl) (exec_f2f F F' i h)
  | fadd F => exact rule_patAB (addSub nanPolicy · F false) (by cases F <;> rfl) (exec_fadd F)
  | fsub F => exact rule_patAB (addSub nanPolicy · F true) (by cases F <;> rfl) (exec_fsub F)
  | fmul F => exact rule_patAB (fmul nanPolicy · F) (by cases F <;> rfl) (exec_fmul F)
  | fdiv F => exact rule_patAB (fdiv nanPolicy · F) (by cases F <;> rfl) (exec_fdiv F)
  | frem F => exact rule_patAB (frem nanPolicy · F) (by cases F <;> rfl) (exec_frem F)
  | fma F negC negP negR halve =>
    exact rule_patABC (fma nanPolicy · F ⟨negC, negP, negR, halve⟩) (by cases F <;> rfl) (exec_fma F negC negP negR halve)
  | fsqrt F => exact rule_patA (fsqrt nanPolicy · F) (by cases F <;> rfl) (exec_fsqrt F)
  | frint F => exact rule_patA (frint nanPolicy · F) (by cases F <;> rfl) (exec_frint F)
  | fscalbn F =>
    have hm : portMasks (Row.fscalbn F).command = ⟨low F.K, low 32, 0, low F.K, 0⟩ := by cases F <;> rfl
    exact rule_completePat (by rw [hm]) (exec_fscalbn F) fun s s' hc h => by
      rw [hc, h.patA (by rw [hm]), sint32B, h.lowB (k := 32) (by rw [hm]) le_rfl, ← sint32B]
  | feq F q => exact rule_compare (fun v => outBool (v == .equal)) (by cases F <;> rfl) (fun _ => outBool_lt _) (exec_feq F q)
  | fle F q => exact rule_compare (fun v => outBool (v == .less || v == .equal)) (by cases F <;> rfl) (fun _ => outBool_lt _) (exec_fle F q)
  | flt F q => exact rule_compare (fun v => outBool (v == .less)) (by cases F <;> rfl) (fun _ => outBool_lt _) (exec_flt F q)
  | funord F q => exact rule_compare (fun v => outBool (v == .unordered)) (by cases F <;> rfl) (fun _ => outBool_lt _) (exec_funord F q)
  | fcmp F q => exact rule_compare (fun v => outBits 2 v.code) (by cases F <;> rfl) (fun _ => outBits_lt _ _) (exec_fcmp F q)
  | fminnum F => exact rule_patAB (fun ctl a b => .ok (minMax nanPolicy ctl F true false a b)) (by cases F <;> rfl) (exec_fminnum F)
  | fmaxnum F => exact rule_patAB (fun ctl a b => .ok (minMax nanPolicy ctl F false false a b)) (by cases F <;> rfl) (exec_fmaxnum F)
  | fminnummag F => exact rule_patAB (fun ctl a b => .ok (minMax nanPolicy ctl F true true a b)) (by cases F <;> rfl) (exec_fminnummag F)
  | fmaxnummag F => exact rule_patAB (fun ctl a b => .ok (minMax nanPolicy ctl F false true a b)) (by cases F <;> rfl) (exec_fmaxnummag F)
  | rdctl =>
    exact rule_answer exec_rdctl (fun s s' hc _ => by simp only [readCtl, hc])
      fun s => ⟨and_not_low (k := 32) (toNat_setWidth_lt 256 (readCtl s)), BitVec.zero_and⟩
  | wrctl => exact absurd rfl hc
  | rdflg => exact absurd rfl hr
  | wrflg => exact absurd rfl hf

/-! ## What the rules say -/

/-- R31, R33: with the same request and `CTL` a rule ends the same way, whatever `FLG` holds: one violation, or one answer. -/
theorem IsRule.same_outcome {i : Instr} {v : State → Except ContractCause (Flagged (Wide × Dword))} (hv : IsRule i v) {s s' : State}
    (hc : s.ctl = s'.ctl) (h : SameOperands i s.request s'.request) :
    (Violates i s ∧ Violates i s') ∨ ∃ r x m, Confined i r x ∧ Answers i s r x m ∧ Answers i s' r x m := by
  have hs := hv.ends s
  have hs' := hv.ends s'
  rw [← hv.reads s s' hc h] at hs'
  rcases ho : v s with c | o <;> rw [ho] at hs hs'
  · exact .inl ⟨hs, hs'⟩
  · exact .inr ⟨_, _, _, hv.writes s o ho, hs, hs'⟩

/-- What stands on the output ports after an instruction: results in the bits of R75 with `ERR = 0`, or zeros with `ERR = 2`. -/
theorem response_cases {i : Instr} {s t : State} (h : exec i s = .next t) :
    (∃ r x, Confined i r x ∧ t.response = some { r := r, x := x, err := 0 }) ∨ t.response = some { r := 0, x := 0, err := 2 } := by
  by_cases hc : i = .wrctl
  · subst hc; cases h; exact .inl ⟨0, 0, ⟨BitVec.zero_and, BitVec.zero_and⟩, rfl⟩
  by_cases hf : i = .wrflg
  · subst hf; cases h; exact .inl ⟨0, 0, ⟨BitVec.zero_and, BitVec.zero_and⟩, rfl⟩
  by_cases hr : i = .rdflg
  · subst hr; cases h; exact .inl ⟨_, 0, ⟨and_not_low (k := 32) (toNat_setWidth_lt 256 (readFlg s)), BitVec.zero_and⟩, rfl⟩
  obtain ⟨v, hv⟩ := exists_rule i hc hr hf
  rcases hv.same_outcome rfl (sameOperands_refl i s.request) with ⟨hs, -⟩ | ⟨r, x, m, hw, hs, -⟩ <;> cases h.symm.trans hs
  · exact .inr rfl
  · exact .inl ⟨r, x, hw, rfl⟩

/-- R20: with the same registers, the listed operand bits decide the response and the registers after it. -/
theorem same_result {i : Instr} {s s' : State} (hctl : s.ctl = s'.ctl) (hflg : s.flg = s'.flg) (hhalt : s.halt = s'.halt)
    (h : SameOperands i s.request s'.request) :
    ∃ t t', exec i s = .next t ∧ exec i s' = .next t' ∧ t.response = t'.response ∧ t.ctl = t'.ctl ∧ t.flg = t'.flg ∧ t.halt = t'.halt := by
  by_cases hc : i = .wrctl
  · subst hc
    have hA : wordA s = wordA s' := setWidth_eq_of_and_low h.1
    exact ⟨_, _, rfl, rfl, rfl, by simp [hA], by simp [hflg], hhalt⟩
  by_cases hf : i = .wrflg
  · subst hf
    have hA : wordA s = wordA s' := setWidth_eq_of_and_low h.1
    exact ⟨_, _, rfl, rfl, rfl, hctl, by simp [hA], hhalt⟩
  by_cases hr : i = .rdflg
  · subst hr
    exact ⟨_, _, rfl, rfl, by simp [readFlg, hflg], hctl, by simp [hflg], hhalt⟩
  obtain ⟨v, hv⟩ := exists_rule i hc hr hf
  rcases hv.same_outcome hctl h with ⟨hs, hs'⟩ | ⟨r, x, m, -, hs, hs'⟩
  · exact ⟨_, _, hs, hs', rfl, hctl, hflg, rfl⟩
  · exact ⟨_, _, hs, hs', rfl, hctl, by simp only [hflg], hhalt⟩

/-- Settles O16: what is read by `same_result`, what is written by `response_cases`. -/
theorem unreadBits : Obligations.UnreadBits := by
  refine ⟨fun i s s' hctl hflg hhalt h => same_result hctl hflg hhalt h, fun i s t resp h hresp => ?_⟩
  rcases response_cases h with ⟨r, x, ⟨hr, hx⟩, ht⟩ | ht <;> cases ht.symm.trans hresp
  · exact ⟨hr, hx, fun he => absurd rfl he⟩
  · exact ⟨BitVec.zero_and, BitVec.zero_and, fun _ => ⟨rfl, rfl⟩⟩

/-- Settles O17: a rule does not read `FLG`, and neither register write does. -/
theorem onlyRdflgReadsFlags : Obligations.OnlyRdflgReadsFlags := by
  intro i s f hr
  by_cases hc : i = .wrctl
  · subst hc; exact ⟨_, _, rfl, rfl, rfl, rfl, rfl⟩
  by_cases hf : i = .wrflg
  · subst hf; exact ⟨_, _, rfl, rfl, rfl, rfl, rfl⟩
  obtain ⟨v, hv⟩ := exists_rule i hc hr hf
  rcases hv.same_outcome (s := s) (s' := { s with flg := f }) rfl (sameOperands_refl i s.request) with ⟨hs, hs'⟩ | ⟨r, x, m, -, hs, hs'⟩
  · exact ⟨_, _, hs, hs', rfl, rfl, rfl⟩
  · exact ⟨_, _, hs, hs', rfl, rfl, rfl⟩

/-- R31: one flag mask for a request and a `CTL`, whatever `FLG` and the rest of the state hold. -/
theorem exists_flag_mask (i : Instr) (q : Request) (ctl : Word) (hf : i ≠ .wrflg) :
    ∃ m : Flags, ∀ s : State, s.request = q → s.ctl = ctl → ∃ t, exec i s = .next t ∧ t.flg = s.flg ||| m.setWidth 32 := by
  by_cases hc : i = .wrctl
  · subst hc; exact ⟨0, fun s _ _ => ⟨_, rfl, rfl⟩⟩
  by_cases hr : i = .rdflg
  · subst hr; exact ⟨0, fun s _ _ => ⟨_, rfl, rfl⟩⟩
  obtain ⟨v, hv⟩ := exists_rule i hc hr hf
  obtain ⟨o, ho⟩ : ∃ o, ∀ s : State, s.request = q → s.ctl = ctl → Ends i s o := by
    refine ⟨v { State.reset with request := q, ctl := ctl }, fun s hq hctl => ?_⟩
    rw [hv.reads _ s hctl.symm (hq ▸ sameOperands_refl i q)]
    exact hv.ends s
  rcases o with c | o
  · exact ⟨0, fun s hq hctl => ⟨_, ho s hq hctl, by simp⟩⟩
  · exact ⟨o.flags, fun s hq hctl => ⟨_, ho s hq hctl, rfl⟩⟩

/-- Settles O15: the mask is the rule's (`exists_flag_mask`), and a step that is neither `WRFLG` nor a reset only adds flags (`step_flg`). -/
theorem flagsAccumulate : Obligations.FlagsAccumulate := by
  refine ⟨fun i q ctl hf => exists_flag_mask i q ctl hf, fun s t k h hs ht => (step_flg h).resolve_left ?_⟩
  rintro ⟨m, hm⟩
  rw [hm, BitVec.getLsbD_or, hs, Bool.true_or] at ht
  cases ht

end Sys2Proof.Machine
end

section
/-!
SUPPORT. The operations that do not consult the modes (spec/10_state.md R25, spec/40_multiword.md R112, spec/70_reset_and_hazards.md R382).
-/

namespace Sys2Proof.Machine

/-- The instruction answers with no flag, and answers the same with any other `CTL` and `FLG`. -/
def ModeFree (i : Instr) : Prop :=
  ∀ (s : State) (ctl flg : Word), ∃ r x, Answers i s r x 0 ∧ Answers i { s with ctl := ctl, flg := flg } r x 0

/-- The instruction completes with `ERR = 0` in the state. -/
def Completes (i : Instr) (s : State) : Prop := ∃ t resp, exec i s = .next t ∧ t.response = some resp ∧ resp.err = 0

theorem completes_of_answer {i : Instr} {s s' : State} {r : Wide} {x : Dword} {m : Flags} (h : exec i s = .next (answer r x m s')) : Completes i s :=
  ⟨_, _, h, rfl, rfl⟩

theorem completes_of_completePat {i : Instr} {s : State} {F : Fmt} {v : Flagged Pat} (h : exec i s = completePat F (.ok v) s) : Completes i s :=
  ⟨_, _, h, rfl, rfl⟩

/-- The rows that R382 names: the divides, whose precondition may fail, and operations that read neither register. -/
theorem divide_or_modeFree {i : Instr}
    (h : i.command.opc.toNat ≤ 0x0D ∨ (0x20 ≤ i.command.opc.toNat ∧ i.command.opc.toNat ≤ 0x23) ∨ i.command.opc.toNat = 0x40 ∨
      i.command.opc.toNat = 0x41 ∨ i.command.opc.toNat = 0x44) : (i = .divest128 ∨ i = .divq128) ∨ ModeFree i := by
  induction i using rowCases with
  | add n => exact .inr fun _ _ _ => ⟨_, _, exec_add n _, exec_add n _⟩
  | sub n => exact .inr fun _ _ _ => ⟨_, _, exec_sub n _, exec_sub n _⟩
  | cmpeq n => exact .inr fun _ _ _ => ⟨_, _, exec_cmpeq n _, exec_cmpeq n _⟩
  | cmpne n => exact .inr fun _ _ _ => ⟨_, _, exec_cmpne n _, exec_cmpne n _⟩
  | cmplt n => exact .inr fun _ _ _ => ⟨_, _, exec_cmplt n _, exec_cmplt n _⟩
  | cmple n => exact .inr fun _ _ _ => ⟨_, _, exec_cmple n _, exec_cmple n _⟩
  | shl n => exact .inr fun _ _ _ => ⟨_, _, exec_shl n _, exec_shl n _⟩
  | shr n => exact .inr fun _ _ _ => ⟨_, _, exec_shr n _, exec_shr n _⟩
  | shrj n => exact .inr fun _ _ _ => ⟨_, _, exec_shrj n _, exec_shrj n _⟩
  | clz n => exact .inr fun _ _ _ => ⟨_, _, exec_clz n _, exec_clz n _⟩
  | mul n i hi => exact .inr fun _ _ _ => ⟨_, _, exec_mul n i hi _, exec_mul n i hi _⟩
  | mul128x128 => exact .inr fun _ _ _ => ⟨_, _, exec_mul128x128 _, exec_mul128x128 _⟩
  | divest128 => exact .inl (.inl rfl)
  | divq128 => exact .inl (.inr rfl)
  | xsign F => exact .inr fun _ _ _ => ⟨_, _, exec_xsign F _, exec_xsign F _⟩
  | xexp F => exact .inr fun _ _ _ => ⟨_, _, exec_xexp F _, exec_xexp F _⟩
  | xsig F => exact .inr fun _ _ _ => ⟨_, _, exec_xsig F _, exec_xsig F _⟩
  | pack F => exact .inr fun _ _ _ => ⟨_, _, exec_pack F _, exec_pack F _⟩
  | issnan F => exact .inr fun _ _ _ => ⟨_, _, exec_issnan F _, exec_issnan F _⟩
  | isqnan F => exact .inr fun _ _ _ => ⟨_, _, exec_isqnan F _, exec_isqnan F _⟩
  | defnan F => exact .inr fun _ _ _ => ⟨_, _, exec_defnan F _, exec_defnan F _⟩
  | f2f F F' i hi => simp [opc_f2f F F' i hi] at h
  | _ => simp at h

/-- The rows that read `CTL.FIZ` or a whole register, but no mode: the propagations, the comparisons, min/max and the status accesses. -/
theorem completes_of_opc {i : Instr} (s : State) (h : i.command.opc.toNat = 0x42 ∨ i.command.opc.toNat = 0x43 ∨ 0x70 ≤ i.command.opc.toNat) :
    Completes i s := by
  induction i using rowCases with
  | propnan F => exact completes_of_completePat (exec_propnan F s)
  | propnan3 F z => exact completes_of_completePat (exec_propnan3 F z s)
  | feq F q => exact completes_of_answer (exec_feq F q s)
  | fle F q => exact completes_of_answer (exec_fle F q s)
  | flt F q => exact completes_of_answer (exec_flt F q s)
  | funord F q => exact completes_of_answer (exec_funord F q s)
  | fcmp F q => exact completes_of_answer (exec_fcmp F q s)
  | fminnum F => exact completes_of_completePat (exec_fminnum F s)
  | fmaxnum F => exact completes_of_completePat (exec_fmaxnum F s)
  | fminnummag F => exact completes_of_completePat (exec_fminnummag F s)
  | fmaxnummag F => exact completes_of_completePat (exec_fmaxnummag F s)
  | rdctl => exact completes_of_answer (exec_rdctl s)
  | wrctl => exact completes_of_answer (exec_wrctl s)
  | rdflg => exact completes_of_answer (exec_rdflg s)
  | wrflg => exact completes_of_answer (exec_wrflg s)
  | mul n i hi => simp [opc_mul n i hi] at h
  | f2f F F' i hi => simp [opc_f2f F F' i hi] at h
  | _ => simp at h

/-- The divides read neither register: whether the precondition fails, and what is answered, is decided by the operands. -/
theorem Divides.same_response {i : Instr} {f : ℕ → ℕ → Wide × Dword} (he : Divides i f) (s : State) (ctl flg : Word) :
    ∃ t t', exec i s = .next t ∧ exec i { s with ctl := ctl, flg := flg } = .next t' ∧ t.response = t'.response ∧ t.flg = s.flg ∧ t'.flg = flg := by
  rcases he s with ⟨c, hd, hx⟩ | ⟨hd, hx⟩ <;> rcases he { s with ctl := ctl, flg := flg } with ⟨c', hd', hx'⟩ | ⟨hd', hx'⟩
  · exact ⟨_, _, hx, hx', rfl, rfl, rfl⟩
  · cases hd.symm.trans hd'
  · cases hd.symm.trans hd'
  · exact ⟨_, _, hx, hx', rfl, by simp, by simp⟩

/-- Settles O20: completion by `completes_of_opc` and `divide_or_modeFree`, the same answer by the latter and, for the divides,
`Divides.same_response`. -/
theorem modeBlind : Obligations.ModeBlind := by
  refine ⟨fun i s h => ?_, fun i s ctl flg h => ?_⟩
  · by_cases hb : i.command.opc.toNat = 0x42 ∨ i.command.opc.toNat = 0x43 ∨ 0x70 ≤ i.command.opc.toNat
    · exact completes_of_opc s hb
    · rcases divide_or_modeFree (i := i) (by omega) with (rfl | rfl) | hfree
      · simp at h
      · simp at h
      · obtain ⟨r, x, ha, -⟩ := hfree s 0 0
        exact completes_of_answer ha
  · rcases divide_or_modeFree h with (rfl | rfl) | hfree
    · exact divides_divest128.same_response s ctl flg
    · exact divides_divq128.same_response s ctl flg
    · obtain ⟨r, x, ha, ha'⟩ := hfree s ctl flg
      exact ⟨_, _, ha, ha', rfl, by simp, by simp⟩

end Sys2Proof.Machine
end

section
/-!
SUPPORT. Which steps of the unit go on (spec/20_memory.md R57, spec/60_exceptions.md R340), and what a step does in a system of several instances
(spec/10_state.md R23, spec/60_exceptions.md R355).
-/

namespace Sys2Proof.Machine

open Sys2Proof.Config (Params)

/-! ## Which steps stop -/

/-- R340: an instruction goes on to a next state; its contract violations are answers. -/
theorem exec_goes_on (i : Instr) (s : State) : ∃ t, exec i s = .next t := by
  by_cases hc : i = .wrctl
  · subst hc; exact ⟨_, exec_wrctl s⟩
  by_cases hf : i = .wrflg
  · subst hf; exact ⟨_, exec_wrflg s⟩
  rcases exec_cases i hc hf s with ⟨r, x, m, ha⟩ | hv
  · exact ⟨_, ha⟩
  · exact ⟨_, hv⟩

theorem step_of_empty {s : State} (h : s.inputs = []) : step s = .next (quiet s) := by rw [step, stepBy, h]

theorem step_of_overlap {s : State} {q q' : Request} {rest : List Input} (h : s.inputs = .overlap q q' :: rest) :
    step s = .refused .overlappingRequests := by rw [step, stepBy, h]

/-- R57: only overlapping requests keep the unit from going on. -/
theorem step_goes_on_or_overlap (s : State) : (∃ t, step s = .next t) ∨ ∃ q q' rest, s.inputs = .overlap q q' :: rest := by
  rcases step_cases s with ⟨-, hs⟩ | ⟨a, rest, -, hs⟩ | ⟨q, q', rest, hi, -⟩ | ⟨q, rest, -, -, hs⟩ | ⟨q, rest, c, -, -, -, hs⟩ |
    ⟨q, rest, i, -, -, -, hs⟩
  · exact .inl ⟨_, hs⟩
  · exact .inl ⟨_, hs⟩
  · exact .inr ⟨q, q', rest, hi⟩
  · exact .inl ⟨_, hs⟩
  · exact .inl ⟨_, hs⟩
  · exact .inl (hs ▸ exec_goes_on i _)

theorem step_ne_fault (s : State) (f : Fault) : step s ≠ .fault f := by
  rcases step_goes_on_or_overlap s with ⟨t, hs⟩ | ⟨q, q', rest, hi⟩
  · simp [hs]
  · simp [step_of_overlap hi]

theorem step_eq_refused_iff (s : State) (r : Refusal) :
    step s = .refused r ↔ r = .overlappingRequests ∧ ∃ q q' rest, s.inputs = .overlap q q' :: rest := by
  constructor
  · intro h
    rcases step_goes_on_or_overlap s with ⟨t, hs⟩ | ⟨q, q', rest, hi⟩
    · cases hs.symm.trans h
    · cases (step_of_overlap hi).symm.trans h
      exact ⟨rfl, q, q', rest, hi⟩
  · rintro ⟨rfl, q, q', rest, hi⟩
    exact step_of_overlap hi

/-- Settles O9: every step goes on but that of overlapping requests (`step_goes_on_or_overlap`). -/
theorem stepStops : Obligations.StepStops := fun s => ⟨step_ne_fault s, step_eq_refused_iff s, step_of_empty⟩

/-! ## Several instances -/

section Instances

variable {P : Params} {j k : ℕ} {us u1 u2 : List State} {s t : State}

theorem stepInstance_of_absent (h : us[k]? = none) : stepInstance P k us = .next us := by rw [stepInstance, h]

theorem stepInstance_of_next (h : us[k]? = some s) (hs : stepWith P s = .next t) : stepInstance P k us = .next (us.set k t) := by
  simp only [stepInstance, h, hs]

/-- R355: a step of the instance `k` is the unit's own step on its state, written back in its place; without an instance `k` it is nothing. -/
theorem stepInstance_next_cases (h : stepInstance P k us = .next u1) :
    (us[k]? = none ∧ u1 = us) ∨ ∃ s t, us[k]? = some s ∧ stepWith P s = .next t ∧ u1 = us.set k t := by
  rcases hk : us[k]? with _ | s
  · rw [stepInstance_of_absent hk] at h
    cases h; exact .inl ⟨rfl, rfl⟩
  · rcases hs : stepWith P s with t | f | r <;> simp only [stepInstance, hk, hs] at h
    · cases h; exact .inr ⟨s, t, rfl, hs, rfl⟩
    · cases h
    · cases h

theorem stepInstance_length (h : stepInstance P j us = .next u1) : u1.length = us.length := by
  rcases stepInstance_next_cases h with ⟨-, rfl⟩ | ⟨s, t, -, -, rfl⟩
  · rfl
  · exact List.length_set

theorem stepInstance_other (h : stepInstance P j us = .next u1) {l : ℕ} (hl : l ≠ j) : u1[l]? = us[l]? := by
  rcases stepInstance_next_cases h with ⟨-, rfl⟩ | ⟨s, t, -, -, rfl⟩
  · rfl
  · exact List.getElem?_set_ne hl.symm

theorem stepInstance_self (h : stepInstance P j us = .next u1) (hs : us[j]? = some s) : ∃ t, stepWith P s = .next t ∧ u1[j]? = some t := by
  rcases stepInstance_next_cases h with ⟨hn, -⟩ | ⟨s', t, hs', ht, rfl⟩
  · cases hn.symm.trans hs
  · cases hs'.symm.trans hs
    obtain ⟨hj, -⟩ := List.getElem?_eq_some_iff.mp hs
    exact ⟨t, ht, List.getElem?_set_self hj⟩

/-- R57: what another instance holds does not enter a step of the instance `k`. -/
theorem stepInstance_set_other (hjk : j ≠ k) (h : stepInstance P k us = .next u2) (t : State) :
    stepInstance P k (us.set j t) = .next (u2.set j t) := by
  rcases stepInstance_next_cases h with ⟨hn, rfl⟩ | ⟨s, t', hs, ht', rfl⟩
  · exact stepInstance_of_absent ((List.getElem?_set_ne hjk).trans hn)
  · rw [List.set_comm _ _ hjk.symm]
    exact stepInstance_of_next ((List.getElem?_set_ne hjk).trans hs) ht'

theorem stepInstance_commutes (hjk : j ≠ k) (h1 : stepInstance P j us = .next u1) (h2 : stepInstance P k us = .next u2) :
    ∃ w, stepInstance P k u1 = .next w ∧ stepInstance P j u2 = .next w := by
  have hj : u2[j]? = us[j]? := stepInstance_other h2 hjk
  rcases stepInstance_next_cases h1 with ⟨hn, rfl⟩ | ⟨s, t, hs, ht, rfl⟩
  · exact ⟨u2, h2, stepInstance_of_absent (hj.trans hn)⟩
  · exact ⟨u2.set j t, stepInstance_set_other hjk h2 t, stepInstance_of_next (hj.trans hs) ht⟩

theorem instancesReset_length (P : Params) : (instancesReset P).length = P.nctx := by simp [instancesReset]

theorem instancesReset_getElem? (hk : k < P.nctx) : (instancesReset P)[k]? = some { State.reset with unitNo := k } := by
  simp [instancesReset, List.getElem?_range hk]

end Instances

/-- Settles O60: a step reads and writes its own instance only (`stepInstance_self`, `stepInstance_other`), so two of them commute
(`stepInstance_commutes`). -/
theorem instancesIndependent : Obligations.InstancesIndependent := by
  refine ⟨fun P j k us u1 u2 hjk h1 h2 => ⟨stepInstance_length h1, fun l hl => stepInstance_other h1 hl, fun s hs => ?_,
    stepInstance_commutes hjk h1 h2⟩, fun P => ⟨instancesReset_length P, fun k hk => instancesReset_getElem? hk⟩⟩
  obtain ⟨t, ht, hj⟩ := stepInstance_self h1 hs
  refine ⟨t, ht, hj, ?_⟩
  rintro rfl
  rwa [stepWith_defaultParams] at ht

end Sys2Proof.Machine
end

section
/-!
SUPPORT. The decoder is the chain of the five checks of spec/30_encoding.md R76: what each reader of a row answers and what the row of an operation code
answers, in terms of the checks; the decoding of an encoded instruction; and the answer to a word that fails a check (R86).
-/

namespace Sys2Proof

/-! ## Selector codes and modifier bits -/

theorem wordsOf_isSome (f : BitVec 3) : (wordsOf f).isSome = decide (f.toNat ≤ 3) := by revert f; decide
theorem fmtOf_isSome (f : BitVec 3) : (fmtOf f).isSome = decide (f.toNat ≤ 4) := by revert f; decide
theorem intTyOf_isSome (f : BitVec 3) : (intTyOf f).isSome = decide (f.toNat ≤ 3) := by revert f; decide
theorem mulRow_isSome (f : BitVec 3) : ((wordsOf f).bind Row.mul).isSome = decide (f.toNat ≤ 2) := by revert f; decide

/-- R75: `F2F` has a row for every destination but the source itself. -/
theorem f2fRow_isSome (f f' : BitVec 3) {F : Fmt} (h : fmtOf f = some F) :
    ((fmtOf f').bind (Row.f2f F)).isSome = (decide (f'.toNat ≤ 4) && f' != f) := by
  revert f f'; cases F <;> decide

theorem toNat_beq_zero (f : BitVec 3) : (f.toNat == 0) = (f == 0) := by revert f; decide
theorem toNat_beq_one (f : BitVec 3) : (f.toNat == 1) = (f == 1) := by revert f; decide
theorem upperBits_eq_zero (m : BitVec 4) : (m.extractLsb' 1 3 == 0) = decide (m.toNat ≤ 1) := by revert m; decide

/-! ## The readers -/

@[simp] theorem check_true (e : IllegalCause) (k : Except IllegalCause Instr) : check true e k = k := rfl
@[simp] theorem check_false (e : IllegalCause) (k : Except IllegalCause Instr) : check false e k = .error e := rfl

theorem check_eq_ok_iff {p : Bool} {e : IllegalCause} {k : Except IllegalCause Instr} {i : Instr} : check p e k = .ok i ↔ p = true ∧ k = .ok i := by
  cases p <;> simp

/-- The checks 3 to 5 of R76 in their order, and the instruction of a word that passes them. -/
def fieldChecks (fmtOk fmt2Ok modOk : Bool) (i : Instr) : Except IllegalCause Instr :=
  check fmtOk .badFormat (check fmt2Ok .badFormat2 (check modOk .badModifier (.ok i)))

/-- `r` answers as the checks 3 to 5 say. (Where `FMT` or `FMT2` fails its check, any instruction serves.) -/
def ReadBy (fmtOk fmt2Ok modOk : Bool) (r : Except IllegalCause Instr) : Prop := ∃ i, r = fieldChecks fmtOk fmt2Ok modOk i

section Readers
variable (c : Command)

theorem readBy_rowWords (row : Words → Instr) : ReadBy (decide (c.fmt.toNat ≤ 3)) (c.fmt2 == 0) (c.mod == 0) (rowWords row c) := by
  rw [← wordsOf_isSome, rowWords]
  rcases wordsOf c.fmt with _ | n
  · exact ⟨.rdctl, rfl⟩
  · exact ⟨row n, rfl⟩

theorem readBy_rowMul : ReadBy (decide (c.fmt.toNat ≤ 2)) (c.fmt2 == 0) (c.mod == 0) (rowMul Row.mul c) := by
  rw [← mulRow_isSome, rowMul]
  rcases (wordsOf c.fmt).bind Row.mul with _ | i
  · exact ⟨.rdctl, rfl⟩
  · exact ⟨i, rfl⟩

theorem readBy_rowFixed (f : BitVec 3) (i : Instr) : ReadBy (c.fmt == f) (c.fmt2 == 0) (c.mod == 0) (rowFixed f i c) := ⟨i, rfl⟩

theorem readBy_rowFmt (row : Fmt → Instr) : ReadBy (decide (c.fmt.toNat ≤ 4)) (c.fmt2 == 0) (c.mod == 0) (rowFmt row c) := by
  rw [← fmtOf_isSome, rowFmt]
  rcases fmtOf c.fmt with _ | F
  · exact ⟨.rdctl, rfl⟩
  · exact ⟨row F, rfl⟩

theorem readBy_rowFmtBit (row : Fmt → Bool → Instr) :
    ReadBy (decide (c.fmt.toNat ≤ 4)) (c.fmt2 == 0) (decide (c.mod.toNat ≤ 1)) (rowFmtBit row c) := by
  rw [← fmtOf_isSome, ← upperBits_eq_zero, rowFmtBit]
  rcases fmtOf c.fmt with _ | F
  · exact ⟨.rdctl, rfl⟩
  · exact ⟨row F (c.mod.getLsbD 0), rfl⟩

theorem readBy_rowFma (row : Fmt → Bool → Bool → Bool → Bool → Instr) :
    ReadBy (decide (c.fmt.toNat ≤ 4)) (c.fmt2 == 0) true (rowFma row c) := by
  rw [← fmtOf_isSome, rowFma]
  rcases fmtOf c.fmt with _ | F
  · exact ⟨.rdctl, rfl⟩
  · exact ⟨row F (c.mod.getLsbD 0) (c.mod.getLsbD 1) (c.mod.getLsbD 2) (c.mod.getLsbD 3), rfl⟩

theorem readBy_rowInt (row : IntTy → Instr) : ReadBy (c.fmt == 0) (decide (c.fmt2.toNat ≤ 3)) (c.mod == 0) (rowInt row c) := by
  rw [← intTyOf_isSome, rowInt]
  rcases intTyOf c.fmt2 with _ | T
  · exact ⟨.rdctl, rfl⟩
  · exact ⟨row T, rfl⟩

theorem readBy_rowFmtInt (row : Fmt → IntTy → Instr) :
    ReadBy (decide (c.fmt.toNat ≤ 4)) (decide (c.fmt2.toNat ≤ 3)) (c.mod == 0) (rowFmtInt row c) := by
  rw [← fmtOf_isSome, ← intTyOf_isSome, rowFmtInt]
  rcases fmtOf c.fmt with _ | F
  · exact ⟨.rdctl, rfl⟩
  rcases intTyOf c.fmt2 with _ | T
  · exact ⟨.rdctl, rfl⟩
  · exact ⟨row F T, rfl⟩

theorem readBy_rowFmtIntBit (row : Fmt → IntTy → Bool → Instr) :
    ReadBy (decide (c.fmt.toNat ≤ 4)) (decide (c.fmt2.toNat ≤ 3)) (decide (c.mod.toNat ≤ 1)) (rowFmtIntBit row c) := by
  rw [← fmtOf_isSome, ← intTyOf_isSome, ← upperBits_eq_zero, rowFmtIntBit]
  rcases fmtOf c.fmt with _ | F
  · exact ⟨.rdctl, rfl⟩
  rcases intTyOf c.fmt2 with _ | T
  · exact ⟨.rdctl, rfl⟩
  · exact ⟨row F T (c.mod.getLsbD 0), rfl⟩

theorem readBy_rowFmtFmt :
    ReadBy (decide (c.fmt.toNat ≤ 4)) (decide (c.fmt2.toNat ≤ 4) && c.fmt2 != c.fmt) (c.mod == 0) (rowFmtFmt Row.f2f c) := by
  rw [← fmtOf_isSome, rowFmtFmt]
  rcases h : fmtOf c.fmt with _ | F
  · exact ⟨.rdctl, rfl⟩
  rw [← f2fRow_isSome c.fmt c.fmt2 h]
  dsimp only [need]
  rcases (fmtOf c.fmt2).bind (Row.f2f F) with _ | i
  · exact ⟨.rdctl, rfl⟩
  · exact ⟨i, rfl⟩

/-! ## The rows of the operation map -/

/-- The row of a listed operation code answers as the checks 3 to 5 of R76 say, those of the code. The cases are the rows of R75, grouped by their
reader. -/
theorem decodeFields_readBy (h : c.opcodeOk = true) : ReadBy c.formatOk c.format2Ok c.modifierOk (decodeFields c) := by
  unfold Command.opcodeOk at h
  unfold Command.formatOk Command.format2Ok Command.modifierOk decodeFields
  split
  case h_1 ho | h_2 ho | h_3 ho | h_4 ho | h_5 ho | h_6 ho | h_7 ho | h_8 ho | h_9 ho | h_10 ho =>
    simpa [Command.inRange, ho, toNat_beq_zero] using readBy_rowWords c _
  case h_11 ho => simpa [Command.inRange, ho, toNat_beq_zero] using readBy_rowMul c
  case h_12 ho | h_13 ho | h_14 ho => simpa [Command.inRange, ho, toNat_beq_zero, toNat_beq_one] using readBy_rowFixed c 1 _
  case h_15 ho | h_16 ho | h_17 ho | h_18 ho | h_19 ho | h_20 ho | h_22 ho | h_23 ho | h_24 ho | h_26 ho | h_30 ho | h_31 ho | h_32 ho |
      h_33 ho | h_34 ho | h_36 ho | h_37 ho | h_38 ho | h_44 ho | h_45 ho | h_46 ho | h_47 ho =>
    simpa [Command.inRange, ho, toNat_beq_zero] using readBy_rowFmt c _
  case h_25 ho | h_39 ho | h_40 ho | h_41 ho | h_42 ho | h_43 ho =>
    simpa [Command.inRange, ho, toNat_beq_zero] using readBy_rowFmtBit c _
  case h_21 ho => simpa [Command.inRange, ho, toNat_beq_zero] using readBy_rowInt c _
  case h_27 ho => simpa [Command.inRange, ho, toNat_beq_zero] using readBy_rowFmtInt c _
  case h_28 ho => simpa [Command.inRange, ho, toNat_beq_zero] using readBy_rowFmtIntBit c _
  case h_29 ho => simpa [Command.inRange, ho, toNat_beq_zero] using readBy_rowFmtFmt c
  case h_35 ho => simpa [Command.inRange, ho, toNat_beq_zero] using readBy_rowFma c _
  case h_48 ho | h_49 ho | h_50 ho | h_51 ho => simpa [Command.inRange, ho, toNat_beq_zero] using readBy_rowFixed c 0 _
  case h_52 =>
    simp only [Command.inRange, Bool.or_eq_true, Bool.and_eq_true, decide_eq_true_eq] at h
    simp only [imp_false] at *
    omega

theorem decodeFields_badOpcode (h : c.opcodeOk = false) : decodeFields c = .error .badOpcode := by
  unfold Command.opcodeOk at h
  unfold decodeFields
  split
  case h_52 => rfl
  all_goals next ho => simp [Command.inRange, ho] at h

end Readers

/-! ## The decoder -/

/-- R76: `decode` is the five checks in their order. -/
theorem decode_eq_checks (w : Word) :
    ∃ i, decode w = check (Command.ofWord w).reservedOk .reservedBits (check (Command.ofWord w).opcodeOk .badOpcode
      (fieldChecks (Command.ofWord w).formatOk (Command.ofWord w).format2Ok (Command.ofWord w).modifierOk i)) := by
  rw [decode, Command.reservedOk]
  rcases h : (Command.ofWord w).opcodeOk with _ | _
  · exact ⟨.rdctl, by rw [decodeFields_badOpcode _ h]; rfl⟩
  · obtain ⟨i, hi⟩ := decodeFields_readBy _ h
    exact ⟨i, by rw [hi]; rfl⟩

theorem Command.wellFormed_iff (c : Command) :
    c.wellFormed = true ↔ c.reservedOk = true ∧ c.opcodeOk = true ∧ c.formatOk = true ∧ c.format2Ok = true ∧ c.modifierOk = true := by
  simp only [wellFormed, Bool.and_eq_true, and_assoc]

/-- Settles O3: `decode` is the chain of the checks (`decode_eq_checks`); each clause says where the chain ends. -/
theorem decodeChecks : Obligations.DecodeChecks := by
  intro w c
  obtain ⟨i, hi⟩ := decode_eq_checks w
  rw [hi]
  refine ⟨fun h1 => ?_, fun h1 h2 => ?_, fun h1 h2 h3 => ?_, fun h1 h2 h3 h4 => ?_, fun h1 h2 h3 h4 h5 => ?_, fun h => ⟨i, ?_⟩⟩
  · simp [c, h1]
  · simp [c, h1, h2]
  · simp [c, fieldChecks, h1, h2, h3]
  · simp [c, fieldChecks, h1, h2, h3, h4]
  · simp [c, fieldChecks, h1, h2, h3, h4, h5]
  · obtain ⟨h1, h2, h3, h4, h5⟩ := (Command.wellFormed_iff c).mp h
    simp [c, fieldChecks, h1, h2, h3, h4, h5]

/-- Only a legal word decodes: it passed the five checks. -/
theorem wellFormed_of_decode {w : Word} {i : Instr} (h : decode w = .ok i) : (Command.ofWord w).wellFormed = true := by
  obtain ⟨j, hj⟩ := decode_eq_checks w
  simp only [hj, fieldChecks, check_eq_ok_iff] at h
  obtain ⟨h1, h2, h3, h4, h5, -⟩ := h
  exact (Command.wellFormed_iff _).mpr ⟨h1, h2, h3, h4, h5⟩

theorem decode_illFormed {w : Word} (h : (Command.ofWord w).wellFormed = false) : ∃ e, decode w = .error e := by
  rcases hd : decode w with e | i
  · exact ⟨e, rfl⟩
  · cases h.symm.trans (wellFormed_of_decode hd)

theorem opcodeOk_of_reserved_code {w : Word} (h : 0x90 ≤ w.toNat % 256 ∧ w.toNat % 256 ≤ 0x9F) : (Command.ofWord w).opcodeOk = false := by
  have ho : (Command.ofWord w).opc.toNat = w.toNat % 256 := by simp [Command.ofWord]
  simp only [Command.opcodeOk, Command.inRange, ho, Bool.or_eq_false_iff, Bool.and_eq_false_iff, decide_eq_false_iff_not]
  omega

theorem Command.wellFormed_of_opcodeOk {c : Command} (h : c.opcodeOk = false) : c.wellFormed = false := by
  simp [wellFormed, h]

/-! ## Decoding an encoded instruction -/

/-- R70: the fields of a command word are read back as they were put. -/
theorem ofWord_word (c : Command) : Command.ofWord c.word = c := by
  obtain ⟨opc, fmt, fmt2, mod, rsv⟩ := c
  simp only [Command.ofWord, Command.word, Command.mk.injEq]
  refine ⟨?_, ?_, ?_, ?_, ?_⟩ <;> ext j hj <;> grind

theorem decode_encode (i : Instr) : decode (encode i) = .ok i := by
  rw [decode, encode, ofWord_word]
  induction i using rowCases with
  | mul128x128 | divest128 | divq128 | rdctl | wrctl | rdflg | wrflg => rfl
  | add n | sub n | cmpeq n | cmpne n | cmplt n | cmple n | shl n | shr n | shrj n | clz n => cases n <;> rfl
  | mul n i h => cases n <;> cases h <;> rfl
  | xsign F | xexp F | xsig F | pack F | rpack F | nrpack F | issnan F | isqnan F | propnan F | defnan F | fadd F | fsub F | fmul F | fdiv F
  | frem F | fsqrt F | frint F | fscalbn F | fminnum F | fmaxnum F | fminnummag F | fmaxnummag F => cases F <;> rfl
  | rpacki T => cases T <;> rfl
  | propnan3 F b | feq F b | fle F b | flt F b | funord F b | fcmp F b => cases F <;> cases b <;> rfl
  | i2f F T => cases F <;> cases T <;> rfl
  | f2i F T b => cases F <;> cases T <;> cases b <;> rfl
  | f2f F F' i h => cases F <;> cases F' <;> cases h <;> rfl
  | fma F negC negP negR halve => cases F <;> cases negC <;> cases negP <;> cases negR <;> cases halve <;> rfl

namespace Machine

theorem step_of_illegal {s : State} {q : Request} {rest : List Input} {c : IllegalCause} (hi : s.inputs = .request q :: rest) (hh : s.halt = false)
    (hd : decode q.cmd = .error c) : step s = .next (takeFault (.illegalCommand c) (accept q rest s)) := by
  rw [step, stepBy, hi]
  simp [answerRequest, hh, hd]

/-- Settles O7: neither kind of word decodes (`decode_illFormed`, `opcodeOk_of_reserved_code`), and the step then takes the fault. -/
theorem illegalCommand : Obligations.IllegalCommand := by
  intro s q rest hi hh hw
  have hill : (Command.ofWord q.cmd).wellFormed = false :=
    hw.elim id fun hop => Command.wellFormed_of_opcodeOk (opcodeOk_of_reserved_code hop)
  obtain ⟨c, hd⟩ := decode_illFormed hill
  exact step_of_illegal hi hh hd

end Machine
end Sys2Proof
end

section
/-!
SUPPORT. The pseudo-operations of spec/30_encoding.md R88: a step that is asked for an instruction, the round-toward-zero wrapper, and comparisons with
their operands swapped.
-/

namespace Sys2Proof.Machine

/-! ## Asking for an instruction -/

@[simp] theorem ask_a (i : Instr) (a b : Wide) : (Pseudo.ask i a b).a = a := rfl
@[simp] theorem ask_b (i : Instr) (a b : Wide) : (Pseudo.ask i a b).b = b := rfl

/-- A pattern of format `F` as a port presents it: its low `K` bits. -/
def operand (F : Fmt) (p : Wide) : Pat := (p.setWidth F.K).setWidth 128

@[simp] theorem patA_ask (F : Fmt) (i : Instr) (a b : Wide) (rest : List Input) (s : State) :
    patA F (accept (Pseudo.ask i a b) rest s) = operand F a := rfl
@[simp] theorem patB_ask (F : Fmt) (i : Instr) (a b : Wide) (rest : List Input) (s : State) :
    patB F (accept (Pseudo.ask i a b) rest s) = operand F b := rfl

section Steps
variable {s : State} {a b : Wide} {rest : List Input} (hh : s.halt = false)
include hh

/-- R347: a unit that is not halted answers a request for `i` with the meaning of `i`. -/
theorem step_ask {i : Instr} (hi : s.inputs = .request (Pseudo.ask i a b) :: rest) : step s = exec i (accept (Pseudo.ask i a b) rest s) := by
  rw [step, stepBy, hi]
  simp [answerRequest, hh, Pseudo.ask, decode_encode]

theorem step_rdctl (hi : s.inputs = .request (Pseudo.ask .rdctl a b) :: rest) :
    ∃ t, step s = .next t ∧ t.response = some { r := (readCtl s).setWidth 256, x := 0, err := 0 } ∧ t.ctl = s.ctl ∧ t.flg = s.flg ∧
      t.halt = false ∧ t.inputs = rest :=
  ⟨_, step_ask hh hi, rfl, rfl, by simp, hh, rfl⟩

/-- A word whose reserved bits are zero is stored as it is. -/
theorem step_wrctl {m : Word} (hm : m.toNat < 2 ^ 8) (hi : s.inputs = .request (Pseudo.ask .wrctl (m.setWidth 256) b) :: rest) :
    ∃ t, step s = .next t ∧ t.ctl = m ∧ t.flg = s.flg ∧ t.halt = false ∧ t.inputs = rest := by
  refine ⟨_, step_ask hh hi, ?_, by simp, hh, rfl⟩
  show (((m.setWidth 256).setWidth 32).setWidth 8).setWidth 32 = m
  bv_omega

theorem step_f2i {F : Fmt} {T : IntTy} {rz : Bool} {v : Flagged ℕ} (hi : s.inputs = .request (Pseudo.ask (Row.f2i F T rz) a b) :: rest)
    (hv : f2i s.ctl F T rz (operand F a) = .ok v) :
    ∃ t, step s = .next t ∧ t.response = some { r := outBits T.width v.val, x := 0, err := 0 } ∧ t.ctl = s.ctl ∧
      t.flg = s.flg ||| v.flags.setWidth 32 ∧ t.halt = false ∧ t.inputs = rest := by
  have hx : step s = completeInt T (.ok v) (accept (Pseudo.ask (Row.f2i F T rz) a b) rest s) := by
    rw [step_ask hh hi, exec_f2i, f2iOp, patA_ask, accept_ctl, hv]
  exact ⟨_, hx, rfl, rfl, rfl, hh, rfl⟩

theorem step_compareWords {i : Instr} {n : Words} {rel : ℕ → ℕ → Bool} (he : ∀ s, exec i s = compareWords rel n s)
    (hi : s.inputs = .request (Pseudo.ask i a b) :: rest) :
    ∃ t, step s = .next t ∧
      t.response = some { r := outBool (rel (a.setWidth n.bits).toNat (b.setWidth n.bits).toNat), x := 0, err := 0 } := by
  refine ⟨_, (step_ask hh hi).trans (he _), ?_⟩
  rw [answer_response, wordsA_eq, wordsB_eq]
  rfl

/-- A floating-point comparison that answers `f` of the verdict. -/
theorem step_compare {i : Instr} {F : Fmt} {q : Bool} {f : Verdict → Wide}
    (he : ∀ s, exec i s = .next (answer (f (compare nanPolicy s.ctl F q (patA F s) (patB F s)).val) 0
      (compare nanPolicy s.ctl F q (patA F s) (patB F s)).flags s))
    (hi : s.inputs = .request (Pseudo.ask i a b) :: rest) :
    ∃ t, step s = .next t ∧
      t.response = some { r := f (compare nanPolicy s.ctl F q (operand F a) (operand F b)).val, x := 0, err := 0 } ∧
      t.flg = s.flg ||| (compare nanPolicy s.ctl F q (operand F a) (operand F b)).flags.setWidth 32 :=
  ⟨_, (step_ask hh hi).trans (he _), rfl, rfl⟩

theorem step_clrflg (hi : s.inputs = .request Pseudo.clrflg :: rest) : ∃ t, step s = .next t ∧ t.flg = 0 ∧ t.ctl = s.ctl :=
  ⟨_, step_ask hh hi, by simp [wordA], rfl⟩

end Steps

/-! ## The round-toward-zero wrapper -/

theorem readCtl_of_reservedZero {s : State} (h : ReservedZero s) : readCtl s = s.ctl := by
  have := h.1
  rw [readCtl]
  bv_omega

theorem towardZero_eq (m : Word) : Pseudo.towardZero m = m &&& 0xF8 ||| 2 := by
  rw [Pseudo.towardZero]
  apply BitVec.add_eq_or_of_and_eq_zero
  rw [BitVec.and_assoc]
  simp

theorem towardZero_lt (m : Word) : (Pseudo.towardZero m).toNat < 2 ^ 8 := by
  rw [towardZero_eq, BitVec.toNat_or, BitVec.toNat_and]
  exact Nat.or_lt_two_pow (Nat.and_lt_two_pow _ (by decide)) (by decide)

theorem readMode_towardZero (m : Word) : readMode (Pseudo.towardZero m) = .ok .tz := by
  have h : (Pseudo.towardZero m).setWidth 3 = 2 := by
    rw [towardZero_eq, BitVec.setWidth_or, BitVec.setWidth_and]
    simp
  have h8 : (Pseudo.towardZero m).toNat % 8 = 2 := by rw [← BitVec.toNat_setWidth (i := 3), h]; rfl
  exact readMode_eq _ _ (by rw [h8]; rfl)

theorem ctlFIZ_towardZero (m : Word) : ctlFIZ (Pseudo.towardZero m) = ctlFIZ m := by
  rw [ctlFIZ, ctlFIZ, towardZero_eq]
  simp

theorem squash_towardZero (m : Word) (F : Fmt) (a : Pat) : squash (Pseudo.towardZero m) F a = squash m F a := by
  rw [squash, ctlFIZ_towardZero, squash]

theorem squashFlag_towardZero (m : Word) (F : Fmt) (a : Pat) : squashFlag (Pseudo.towardZero m) F a = squashFlag m F a := by
  rw [squashFlag, ctlFIZ_towardZero, squashFlag]

/-- R88, R236: in the mode `TZ` the conversion is that of `.RZ`. -/
theorem f2i_towardZero (m : Word) (F : Fmt) (T : IntTy) (a : Pat) : f2i (Pseudo.towardZero m) F T false a = f2i m F T true a := by
  have hq : ∀ b, f2iSquashed (Pseudo.towardZero m) F T false b = f2iSquashed m F T true b := fun b => by
    simp only [f2iSquashed, readMode_towardZero]; rfl
  rw [f2i, hq, squash_towardZero, squashFlag_towardZero, f2i]

/-- R236: `.RZ` consults no mode, so the conversion does not fault. -/
theorem f2i_rz_ok (ctl : Word) (F : Fmt) (T : IntTy) (a : Pat) : ∃ v, f2i ctl F T true a = .ok v := by
  simp only [f2i, f2iSquashed, if_true]
  split_ifs <;> exact ⟨_, rfl⟩

/-- Settles O58: the four steps one by one; the third converts as `.RZ` does (`f2i_towardZero`). -/
theorem roundTowardZeroWrapper : Obligations.RoundTowardZeroWrapper := by
  rintro F T a s _ rest hz hh hi rfl
  obtain ⟨v, hv⟩ := f2i_rz_ok s.ctl F T (operand F a)
  obtain ⟨t1, h1, hr1, hc1, hf1, hh1, hi1⟩ := step_rdctl hh hi
  obtain ⟨t2, h2, hc2, hf2, hh2, hi2⟩ := step_wrctl hh1 (towardZero_lt s.ctl) hi1
  obtain ⟨t3, h3, hr3, hc3, hf3, hh3, hi3⟩ := step_f2i hh2 hi2 (by rw [hc2, f2i_towardZero, hv])
  obtain ⟨t4, h4, hc4, hf4, hh4, hi4⟩ := step_wrctl hh3 hz.1 hi3
  obtain ⟨u, hu, hru, hcu, hfu, hhu, hiu⟩ := step_f2i (s := { s with inputs := .request (Pseudo.ask (Row.f2i F T true) a 0) :: rest }) hh rfl hv
  rw [readCtl_of_reservedZero hz] at hr1
  refine ⟨t1, t2, t3, t4, u, h1, h2, h3, h4, hu, hr1, hr3.trans hru.symm, ?_, hc4, hcu, hh4, hhu, hi4, hiu⟩
  rw [hf4, hf3, hf2, hf1, hfu]

end Sys2Proof.Machine
end

section
/-!
SUPPORT. The pseudo-operations of spec/30_encoding.md R88 that swap their operands or clear the flags.
-/

namespace Sys2Proof.Machine

theorem outBool_decide (p : Prop) [Decidable p] : outBool (decide p) = if p then 1 else 0 := by simp [outBool]

/-! ## Comparing in the other order -/

theorem Frac.lt_asymm {x y : Frac} (h : x.lt y = true) : y.lt x = false := by
  simp only [Frac.lt, decide_eq_true_eq, decide_eq_false_iff_not] at *
  exact h.not_gt

/-- R290: of two patterns at most one is below the other. -/
theorem extLt_asymm {F : Fmt} {a b : Pat} (h : extLt F a b = true) : extLt F b a = false := by
  rw [extLt] at *
  rcases hA : isInf F a with _ | _ <;> rcases hB : isInf F b with _ | _ <;> simp only [hA, hB] at *
  · exact Frac.lt_asymm h
  all_goals simp_all

/-- The verdict on the same operands in the other order. -/
def Verdict.swap : Verdict → Verdict
  | .less => .greater
  | .equal => .equal
  | .greater => .less
  | .unordered => .unordered

theorem relation_swap (F : Fmt) (a b : Pat) : relation F b a = (relation F a b).swap := by
  unfold relation
  rcases hab : extLt F a b with _ | _
  · rcases extLt F b a with _ | _ <;> rfl
  · rw [extLt_asymm hab]
    rfl

theorem compareSquashed_swap (pol : Config.NanPolicy) (F : Fmt) (q : Bool) (a b : Pat) :
    compareSquashed pol F q b a = (compareSquashed pol F q a b).map Verdict.swap := by
  rw [compareSquashed, compareSquashed, Bool.or_comm (isNaN F b), Bool.or_right_comm (!q), relation_swap]
  split_ifs <;> rfl

/-- R291: comparing in the other order swaps the verdict and sets the same flags. -/
theorem compare_swap (pol : Config.NanPolicy) (ctl : Word) (F : Fmt) (q : Bool) (a b : Pat) :
    compare pol ctl F q b a = (compare pol ctl F q a b).map Verdict.swap := by
  rw [compare, compare, compareSquashed_swap, BitVec.or_comm (squashFlag ctl F b)]
  rfl

/-! ## The codes of the verdicts (R296) -/

theorem Verdict.code_lt (v : Verdict) : v.code < 4 := by cases v <;> decide

theorem outBool_swap_less (v : Verdict) : outBool (v.swap == .less) = if v.code = 2 then 1 else 0 := by cases v <;> rfl

theorem outBool_swap_less_or_equal (v : Verdict) :
    outBool (v.swap == .less || v.swap == .equal) = if v.code = 2 ∨ v.code = 1 then 1 else 0 := by cases v <;> rfl

theorem outBits_code (v : Verdict) : outBits 2 v.code = BitVec.ofNat 256 v.code := outBits_of_lt v.code_lt

/-- Settles O59: the compares on words by their rule, the floating-point ones because comparing in the other order swaps the verdict and keeps the flags
(`compare_swap`), `CLRFLG` by the register write. -/
theorem pseudoOperations : Obligations.PseudoOperations := by
  intro s rest hh
  refine ⟨fun n a b => ?_, fun F q a b => ?_, step_clrflg (s := { s with inputs := _ }) hh rfl⟩
  · obtain ⟨t, ht, hr⟩ := step_compareWords (s := { s with inputs := .request (Pseudo.cmpgt n a b) :: rest }) hh (exec_cmplt n) rfl
    obtain ⟨t', ht', hr'⟩ := step_compareWords (s := { s with inputs := .request (Pseudo.cmpge n a b) :: rest }) hh (exec_cmple n) rfl
    rw [outBool_decide] at hr hr'
    exact ⟨t, t', ht, ht', hr, hr'⟩
  · obtain ⟨t, ht, hr, hf⟩ := step_compare (s := { s with inputs := .request (Pseudo.fgt F q a b) :: rest })
      (f := fun v => outBool (v == .less)) hh (exec_flt F q) rfl
    obtain ⟨t', ht', hr', hf'⟩ := step_compare (s := { s with inputs := .request (Pseudo.fge F q a b) :: rest })
      (f := fun v => outBool (v == .less || v == .equal)) hh (exec_fle F q) rfl
    obtain ⟨u, hu, hru, hfu⟩ := step_compare (s := { s with inputs := .request (Pseudo.ask (Row.fcmp F q) a b) :: rest })
      (f := fun v => outBits 2 v.code) hh (exec_fcmp F q) rfl
    rw [compare_swap] at hr hf hr' hf'
    rw [outBits_code] at hru
    refine ⟨t, t', u, ht, hu, ht', ⟨_, Verdict.code_lt _, hru, ?_, ?_⟩, hf.trans hfu.symm, hf'.trans hfu.symm⟩
    · rw [hr, ← outBool_swap_less]
      rfl
    · rw [hr', ← outBool_swap_less_or_equal]
      rfl

end Sys2Proof.Machine
end

section
/-!
SUPPORT. The multi-word primitives of spec/40_multiword.md: their answers as bit vectors and numbers of `64n` bits. Each operation's own equation
(`exec_add` and the like) gives the answer on `R`; what is shown here is which number that answer is.
-/

namespace Sys2Proof.Machine

/-! ## Results on the ports -/

/-- An operation that answers `r` and sets no flag answers nothing else. -/
theorem answers_iff_of_exec {i : Instr} {s : State} {r r' : Wide} {x : Dword} (h : exec i s = .next (answer r x 0 s)) :
    Answers i s r' x 0 ↔ r' = r := by
  refine ⟨fun h' => ?_, fun hr => hr ▸ h⟩
  have hs := Host.Outcome.next.inj (h'.symm.trans h)
  have hresp := congrArg State.response hs
  simp only [answer_response, Option.some.injEq, Response.mk.injEq, and_true] at hresp
  exact hresp

theorem toNat_outBits_of_lt {k n : ℕ} (hk : k ≤ 256) (hn : n < 2 ^ k) : (outBits k n).toNat = n := by
  rw [outBits_of_lt hn, BitVec.toNat_ofNat, Nat.mod_eq_of_lt (hn.trans_le (Nat.pow_le_pow_right two_pos hk))]

theorem outBits_toNat {k : ℕ} (v : BitVec k) : outBits k v.toNat = v.setWidth 256 :=
  outBits_eq k _ v (Nat.mod_eq_of_lt v.isLt).symm

/-! ## The jamming shift (R108) -/

theorem toNat_jam {w : ℕ} (hw : 0 < w) (a : BitVec w) (c : ℕ) :
    (a >>> c ||| (if a.toNat % 2 ^ c = 0 then 0 else 1)).toNat = shrjam a.toNat c := by
  have h1 : (1 : BitVec w).toNat = 1 := Nat.mod_eq_of_lt (Nat.one_lt_two_pow hw.ne')
  rw [shrjam_eq, BitVec.toNat_or, BitVec.toNat_ushiftRight, Nat.shiftRight_eq_div_pow, apply_ite BitVec.toNat, h1]
  rfl

theorem answers_shrj_iff (n : Words) (s : State) (r : Wide) :
    Answers (Row.shrj n) s r 0 0 ↔ r = outBits n.bits (shrjam (wordsA n s) (shiftCount s)) :=
  answers_iff_of_exec (exec_shrj n s)

theorem shiftCount_withOperands (a : Wide) (c : Pat) (s : State) {k : ℕ} (hk : k < 2 ^ 64) :
    shiftCount (s.withOperands a (BitVec.ofNat 256 k) c) = k := by
  show (BitVec.ofNat 256 k).toNat % 2 ^ 64 = k
  rw [BitVec.toNat_ofNat]
  omega

theorem wordsA_withOperands_outBits (n : Words) (b : Wide) (c : Pat) (s : State) {x : ℕ} (hx : x < 2 ^ n.bits) :
    wordsA n (s.withOperands (outBits n.bits x) b c) = x := by
  show (outBits n.bits x).toNat % 2 ^ n.bits = x
  rw [toNat_outBits_of_lt n.bits_le hx, Nat.mod_eq_of_lt hx]

/-- Settles O24: `toNat_jam` reads the answer as a bit vector, and the law is `shrjam_shrjam`, since the first answer is read back whole. -/
theorem jammingShift : Obligations.JammingShift := by
  refine ⟨fun n s => ?_, fun n s a r r' c c1 c2 hc h1 h2 => ?_⟩
  · have hw : 0 < n.bits := (by norm_num : 0 < 64).trans_le n.bits_ge
    rw [answers_shrj_iff, wordsA_eq, shiftCount_eq, ← toNat_jam hw, outBits_toNat]
  · have hlt : shrjam (wordsA n (s.withOperands a (BitVec.ofNat 256 c1) c)) c1 < 2 ^ n.bits :=
      shrjam_lt _ _ (Nat.mod_lt _ (by positivity))
    rw [answers_shrj_iff, shiftCount_withOperands _ _ _ (by omega)] at h1 h2 ⊢
    rw [h2, h1, wordsA_withOperands_outBits n _ _ _ hlt, shrjam_shrjam]
    rfl

/-! ## The count of leading zeros (R109) -/

/-- Shifting left by the leading zeros of a `w`-bit number brings its top set bit to the top. -/
theorem mul_two_pow_leadingZeros {a w : ℕ} (h0 : a ≠ 0) (hw : a < 2 ^ w) :
    msb a < w ∧ 2 ^ (w - 1) ≤ a * 2 ^ (w - 1 - msb a) ∧ a * 2 ^ (w - 1 - msb a) < 2 ^ w := by
  have hm : msb a < w := (Nat.log2_lt h0).mpr hw
  have hp : 0 < 2 ^ (w - 1 - msb a) := by positivity
  refine ⟨hm, ?_, ?_⟩
  · calc 2 ^ (w - 1) = 2 ^ msb a * 2 ^ (w - 1 - msb a) := by rw [← pow_add]; congr 1; omega
      _ ≤ a * 2 ^ (w - 1 - msb a) := Nat.mul_le_mul_right _ (Nat.log2_self_le h0)
  · calc a * 2 ^ (w - 1 - msb a) < 2 ^ (msb a + 1) * 2 ^ (w - 1 - msb a) := Nat.mul_lt_mul_of_pos_right Nat.lt_log2_self hp
      _ = 2 ^ w := by rw [← pow_add]; congr 1; omega

/-- Settles O25: the count fits in its nine bits, and `mul_two_pow_leadingZeros` says what a shift by it does. -/
theorem countLeadingZeros : Obligations.CountLeadingZeros := by
  intro n s a
  have hn := n.bits_le
  have hk : (if a = 0 then n.bits else n.bits - 1 - msb a) < 2 ^ 9 := by split_ifs <;> omega
  refine ⟨if a = 0 then n.bits else n.bits - 1 - msb a, ?_, fun h0 => if_pos h0, fun h0 => ?_⟩
  · rw [answers_iff_of_exec (exec_clz n s), wordsA_eq, outBits_of_lt hk]
  · obtain ⟨hm, hlo, hhi⟩ := mul_two_pow_leadingZeros h0 (BitVec.isLt _ : a < 2 ^ n.bits)
    rw [if_neg h0]
    exact ⟨by omega, hlo, hhi⟩

/-! ## The divides (R131 to R133) -/

theorem divideFault_eq_none_iff {a b : ℕ} : divideFault a b = none ↔ a / 2 ^ 64 < b := by
  unfold divideFault
  split_ifs with h0 h1 <;> simp <;> omega

section
variable {i : Instr} {f : ℕ → ℕ → Wide × Dword} (hi : Divides i f) {s : State}
include hi

theorem Divides.violates (h : bitsB 64 s ≤ bitsA 128 s / 2 ^ 64) : Violates i s := by
  rcases hi s with ⟨_, -, he⟩ | ⟨hn, -⟩
  · exact he
  · exact absurd (divideFault_eq_none_iff.mp hn) h.not_gt

theorem Divides.answers (h : bitsA 128 s / 2 ^ 64 < bitsB 64 s) :
    Answers i s (f (bitsA 128 s) (bitsB 64 s)).1 (f (bitsA 128 s) (bitsB 64 s)).2 0 := by
  rcases hi s with ⟨_, hc, -⟩ | ⟨-, he⟩
  · cases hc.symm.trans (divideFault_eq_none_iff.mpr h)
  · exact he

end

theorem div_lt_of_div_lt {a b m : ℕ} (hm : 0 < m) (h : a / m < b) : a / b < m :=
  Nat.div_lt_of_lt_mul ((Nat.div_lt_iff_lt_mul hm).mp h)

/-- Settles O27: `divides_divest128` with the amount `DIVEST_ERR`, the minimum of the free value and the quotient. -/
theorem divideEstimate : Obligations.DivideEstimate := by
  refine ⟨fun a b => divestErr Config.divestErr a.toNat b.toNat, ?_⟩
  intro s a b q
  refine ⟨fun h => ?_, fun _ h => ?_, fun h => ?_⟩
  · refine divides_divest128.violates ?_
    rw [bitsB_eq]
    exact (congrArg BitVec.toNat h).trans_le (Nat.zero_le _)
  · refine divides_divest128.violates ?_
    rwa [bitsB_eq, bitsA_eq]
  · have hq : q < 2 ^ 64 := div_lt_of_div_lt (by norm_num) h
    refine ⟨hq, (min_le_left _ _).trans (Fin.is_le _), min_le_right _ _, ?_⟩
    have hans := divides_divest128.answers (s := s) (by rwa [bitsB_eq, bitsA_eq])
    rwa [bitsB_eq, bitsA_eq, outBits_of_lt ((Nat.sub_le _ _).trans_lt hq)] at hans

/-- R133: the loop with enough iterations for its partial remainder divides that by the divisor. -/
theorem trialSubtract_eq {b : ℕ} : ∀ (k e rem : ℕ), rem < (k + 1) * b → trialSubtract b k (e, rem) = (e + rem / b, rem % b)
  | 0, e, rem, h => by
    rw [zero_add, one_mul] at h
    rw [trialSubtract, Nat.div_eq_of_lt h, Nat.mod_eq_of_lt h, add_zero]
  | k + 1, e, rem, h => by
    rw [trialSubtract]
    split_ifs with hb
    · have hpos : 0 < b := Nat.pos_of_mul_pos_left (rem.zero_le.trans_lt h)
      have hk : rem - b < (k + 1) * b := by rw [add_one_mul (k + 1)] at h; omega
      rw [trialSubtract_eq k _ _ hk, Nat.div_eq_sub_div hpos hb, Nat.mod_eq_sub_mod hb]
      congr 1
      omega
    · rw [Nat.div_eq_of_lt (not_le.mp hb), Nat.mod_eq_of_lt (not_le.mp hb), add_zero]

/-- An estimate `d` below the quotient leaves `d` divisors and the remainder. -/
theorem sub_estimate_mul {a b d : ℕ} (hd : d ≤ a / b) : (a / b - d) * b ≤ a ∧ a - (a / b - d) * b = a % b + d * b := by
  have hle : d * b ≤ a / b * b := Nat.mul_le_mul_right b hd
  have hdm := Nat.div_add_mod' a b
  rw [Nat.sub_mul]
  omega

/-- Settles O28: `divides_divq128`; an estimate low by `d` leaves a partial remainder below `3b` (`sub_estimate_mul`), which two iterations divide
(`trialSubtract_eq`). -/
theorem divideExact : Obligations.DivideExact := by
  intro s a b
  refine ⟨fun h => ?_, fun _ h => ?_, fun h => ⟨?_, fun d h2 hd => ?_⟩⟩
  · refine divides_divq128.violates ?_
    rw [bitsB_eq]
    exact h.trans_le (Nat.zero_le _)
  · refine divides_divq128.violates ?_
    rwa [bitsB_eq, bitsA_eq]
  · have hans := divides_divq128.answers (s := s) (by rwa [bitsB_eq, bitsA_eq])
    rwa [bitsB_eq, bitsA_eq, outBits_of_lt (div_lt_of_div_lt (by norm_num) h)] at hans
  · have hb : 0 < b := Nat.zero_lt_of_lt h
    obtain ⟨hle, hrem⟩ := sub_estimate_mul hd
    have hlt : a % b + d * b < 3 * b := by
      have := Nat.mod_lt a hb
      have := Nat.mul_le_mul_right b h2
      omega
    rw [hrem]
    refine ⟨hle, hlt, ?_⟩
    rw [trialSubtract_eq 2 _ _ hlt, Nat.add_mul_div_right _ _ hb, Nat.div_eq_of_lt (Nat.mod_lt a hb), Nat.add_mul_mod_self_right, Nat.mod_mod]
    congr 1
    omega

/-! ## Sum and difference (R100, R101) -/

theorem ofNat_carry {k : ℕ} (a b : BitVec k) :
    BitVec.ofNat 64 ((a.toNat + b.toNat) / 2 ^ k) = if 2 ^ k ≤ a.toNat + b.toNat then 1 else 0 := by
  have ha := a.isLt
  have hb := b.isLt
  split_ifs with h
  · rw [Nat.div_eq_of_lt_le (k := 1) (by omega) (by omega)]
    rfl
  · rw [Nat.div_eq_of_lt (not_le.mp h)]
    rfl

theorem toNat_sub_eq_emod {k : ℕ} (a b : BitVec k) : (a - b).toNat = (((a.toNat : ℤ) - b.toNat) % (2 ^ k : ℕ)).toNat := by
  have hb := b.isLt
  have hcast : ((2 ^ k - b.toNat + a.toNat : ℕ) : ℤ) = a.toNat - b.toNat + (2 ^ k : ℕ) := by omega
  rw [BitVec.toNat_sub, ← Int.add_emod_right, ← hcast, ← Int.natCast_emod, Int.toNat_natCast]

/-- Settles O21: the sum and its carry (`ofNat_carry`), the difference (`toNat_sub_eq_emod`) and its borrow. -/
theorem multiWordAddSub : Obligations.MultiWordAddSub := by
  intro n s a b
  refine ⟨(exec_add n s).trans ?_, (exec_sub n s).trans ?_⟩
  · rw [addWords, wordsA_eq, wordsB_eq, outBits_eq _ _ (a + b) (BitVec.toNat_add a b), ofNat_carry]
    rfl
  · rw [subWords, wordsA_eq, wordsB_eq, ← toNat_sub_eq_emod, outBits_toNat]
    rfl

/-! ## Compares (R102 to R105) -/

theorem answers_compareWords {i : Instr} {n : Words} {rel : ℕ → ℕ → Bool} {s : State} (he : exec i s = compareWords rel n s) :
    Answers i s (outBool (rel (s.request.a.setWidth n.bits).toNat (s.request.b.setWidth n.bits).toNat)) 0 0 := by
  rw [← wordsA_eq, ← wordsB_eq]
  exact he

theorem outBool_not (p : Bool) : outBool (!p) = if p then 0 else 1 := by cases p <;> rfl

theorem toNat_beq_toNat {k : ℕ} (a b : BitVec k) : (a.toNat == b.toNat) = decide (a = b) :=
  Bool.eq_iff_iff.mpr (by rw [beq_iff_eq, decide_eq_true_iff, BitVec.toNat_inj])

/-- Settles O22: each relation of the two numbers, or its negation, is the relation of the bit vectors. -/
theorem multiWordCompares : Obligations.MultiWordCompares := by
  intro n s a b
  have heq := answers_compareWords (exec_cmpeq n s)
  have hne := answers_compareWords (exec_cmpne n s)
  have hle : Answers (Row.cmple n) s (outBool (a.ule b)) 0 0 := answers_compareWords (exec_cmple n s)
  rw [toNat_beq_toNat, outBool_decide] at heq
  rw [bne, outBool_not, toNat_beq_toNat] at hne
  rw [BitVec.ule_eq_not_ult, outBool_not] at hle
  exact ⟨heq, by simpa only [decide_eq_true_eq] using hne, answers_compareWords (exec_cmplt n s), hle⟩

/-! ## Logical shifts (R106, R107) -/

theorem outBits_shl {k : ℕ} (a : BitVec k) (c : ℕ) : outBits k (if k ≤ c then 0 else a.toNat * 2 ^ c) = (a <<< c).setWidth 256 := by
  split_ifs with h
  · rw [BitVec.shiftLeft_eq_zero h]
    exact outBits_toNat 0
  · exact outBits_eq _ _ _ (by rw [BitVec.toNat_shiftLeft, Nat.shiftLeft_eq])

theorem outBits_shr {k : ℕ} (a : BitVec k) (c : ℕ) : outBits k (if k ≤ c then 0 else a.toNat / 2 ^ c) = (a >>> c).setWidth 256 := by
  rw [← outBits_toNat, BitVec.toNat_ushiftRight, Nat.shiftRight_eq_div_pow]
  split_ifs with h
  · rw [Nat.div_eq_of_lt (a.isLt.trans_le (Nat.pow_le_pow_right two_pos h))]
  · rfl

/-- Settles O23: the two answers are the shifts of bit vectors, which are zero from the width on. -/
theorem multiWordShifts : Obligations.MultiWordShifts := by
  intro n s a c
  have hl : Answers (Row.shl n) s ((a <<< c).setWidth 256) 0 0 := by
    rw [answers_iff_of_exec (exec_shl n s), wordsA_eq, shiftCount_eq, outBits_shl]
  have hr : Answers (Row.shr n) s ((a >>> c).setWidth 256) 0 0 := by
    rw [answers_iff_of_exec (exec_shr n s), wordsA_eq, shiftCount_eq, outBits_shr]
  refine ⟨hl, hr, fun h => ?_⟩
  rw [BitVec.shiftLeft_eq_zero h, BitVec.setWidth_zero] at hl
  rw [BitVec.ushiftRight_eq_zero h, BitVec.setWidth_zero] at hr
  exact ⟨hl, hr⟩

/-! ## Products (R110, R111) -/

theorem toNat_mul_toNat_lt {k l : ℕ} (a : BitVec k) (b : BitVec l) : a.toNat * b.toNat < 2 ^ (k + l) := by
  rw [pow_add]
  exact Nat.mul_lt_mul'' a.isLt b.isLt

/-- Settles O26: a product fits in the sum of its operands' widths (`toNat_mul_toNat_lt`), so its answer is not cut. -/
theorem multiWordProducts : Obligations.MultiWordProducts := by
  refine ⟨fun n i s hi => ?_, fun s => ?_⟩ <;> intro a b
  · have hlt : a * b < 2 ^ (n.bits + 64) := toNat_mul_toNat_lt _ _
    refine ⟨hlt, ?_⟩
    rw [answers_iff_of_exec (exec_mul n i hi s), wordsA_eq, bitsB_eq, outBits_of_lt hlt]
  · have hlt : a * b < 2 ^ 256 := toNat_mul_toNat_lt (s.request.a.setWidth 128) (s.request.b.setWidth 128)
    refine ⟨hlt, ?_⟩
    rw [answers_iff_of_exec (exec_mul128x128 s), bitsA_eq, bitsB_eq, outBits_of_lt hlt]

end Sys2Proof.Machine
end

section
/-!
SUPPORT. The unpacker and the packer of spec/41_pack_unpack.md: a port's pattern as its three fields, the packer's addition as one of bit vectors, and what
`Squash` does to an operand.
-/

namespace Sys2Proof

theorem Fmt.EW_le (F : Fmt) : F.EW ≤ 32 := by cases F <;> decide
theorem Fmt.explicitBit_of_ne {F : Fmt} : F ≠ .f80 → F.explicitBit = false := by cases F <;> decide
theorem Fmt.two_pow_K (F : Fmt) : 2 ^ F.K = 2 ^ F.M * (2 ^ F.EW * 2) := by rw [Fmt.K_eq, pow_succ, pow_add, mul_assoc]

namespace Machine

/-! ## The fields of an operand on `A` (R141) -/

theorem toNat_patA (F : Fmt) (s : State) : (patA F s).toNat = s.request.a.toNat % 2 ^ F.K := by
  have h := (Nat.mod_lt s.request.a.toNat (by positivity)).trans_le (Nat.pow_le_pow_right two_pos (Fmt.K_le F))
  rw [patA, BitVec.toNat_setWidth, BitVec.toNat_setWidth, Nat.mod_eq_of_lt h]

theorem sign_patA (F : Fmt) (s : State) : sign F (patA F s) = s.request.a.getLsbD (F.K - 1) := by
  have h1 := Fmt.K_le F
  have h2 := Fmt.K_eq F
  simp only [sign, patA, BitVec.getLsbD_setWidth, show F.K - 1 < 128 by omega, show F.K - 1 < F.K by omega, decide_true, Bool.true_and]

theorem expf_patA (F : Fmt) (s : State) : expf F (patA F s) = (s.request.a.extractLsb' F.M F.EW).toNat := by
  rw [expf, toNat_patA, Fmt.two_pow_K, Nat.mod_mul_right_div_self, Nat.mod_mul_right_mod, BitVec.extractLsb'_toNat,
    Nat.shiftRight_eq_div_pow]

theorem sigf_patA (F : Fmt) (s : State) : sigf F (patA F s) = (s.request.a.extractLsb' 0 F.M).toNat := by
  rw [sigf, toNat_patA, Fmt.two_pow_K, Nat.mod_mul_right_mod, BitVec.extractLsb'_toNat, Nat.shiftRight_zero]

/-- Settles O29: the fields of the operand are slices of the port, and no more bits than a field has are answered. -/
theorem accessors : Obligations.Accessors := by
  intro F s
  rw [answers_iff_of_exec (exec_xsign F s), answers_iff_of_exec (exec_xexp F s), answers_iff_of_exec (exec_xsig F s), sign_patA, expf_patA, sigf_patA,
    outBits_toNat, outBits_toNat]
  exact ⟨rfl, rfl, rfl⟩

/-! ## The packer's addition (R148) -/

theorem ofNat_mul_two_pow (w n k : ℕ) : BitVec.ofNat w (n * 2 ^ k) = BitVec.ofNat w n <<< k := by
  apply BitVec.eq_of_toNat_eq
  rw [BitVec.toNat_ofNat, BitVec.toNat_shiftLeft, BitVec.toNat_ofNat, Nat.shiftLeft_eq, Nat.mod_mul_mod]

theorem ofNat_bool (w : ℕ) (p : Bool) : BitVec.ofNat w p.toNat = if p then 1 else 0 := by cases p <;> rfl

theorem ofNat_uint32B (w : ℕ) (s : State) : BitVec.ofNat w (uint32B s) = (s.request.b.setWidth 32).setWidth w := by
  rw [uint32B, bitsB_eq, BitVec.ofNat_toNat]

theorem outPat_ofNat (F : Fmt) (n : ℕ) : outPat F (BitVec.ofNat 128 (n % 2 ^ F.K)) = (BitVec.ofNat F.K n).setWidth 256 := by
  rw [outPat, BitVec.setWidth_ofNat_of_le (Fmt.K_le F)]
  congr 1
  apply BitVec.eq_of_toNat_eq
  simp

/-- The packer of the implicit formats adds three shifted numbers of `K` bits. -/
theorem outPat_pack_implicit {F : Fmt} (hF : F.explicitBit = false) (p : Bool) (e m : ℕ) :
    outPat F (pack F p e m) =
      ((if p then 1 else 0 : BitVec F.K) <<< (F.K - 1) + BitVec.ofNat F.K e <<< F.M + BitVec.ofNat F.K m).setWidth 256 := by
  rw [pack, hF, if_neg Bool.false_ne_true, outPat_ofNat, BitVec.ofNat_add, BitVec.ofNat_add, ofNat_mul_two_pow, ofNat_mul_two_pow, ofNat_bool]

/-- The packer of F80 puts two words side by side. -/
theorem outPat_pack_f80 (p : Bool) (e m : ℕ) :
    outPat .f80 (pack .f80 p e m) =
      (((if p then 1 else 0 : BitVec 16) <<< 15 + BitVec.ofNat 16 e) ++ BitVec.ofNat 64 m : BitVec 80).setWidth 256 := by
  rw [← ofNat_bool, ← ofNat_mul_two_pow, ← BitVec.ofNat_add]
  show ((BitVec.ofNat 128 ((p.toNat * 2 ^ 15 + e) % 2 ^ 16 * 2 ^ 64 + m % 2 ^ 64)).setWidth 80).setWidth 256 = _
  congr 1
  apply BitVec.eq_of_toNat_eq
  rw [BitVec.toNat_setWidth, BitVec.toNat_append, ← Nat.shiftLeft_add_eq_or_of_lt (BitVec.isLt _), Nat.shiftLeft_eq, BitVec.toNat_ofNat,
    BitVec.toNat_ofNat, BitVec.toNat_ofNat]
  omega

/-- Settles O30: `outPat_pack_implicit` and `outPat_pack_f80`, with the operands read as bit vectors. -/
theorem packer : Obligations.Packer := by
  refine ⟨fun F s hF => ?_, fun s => ?_⟩
  · have hx : F.explicitBit = false := Fmt.explicitBit_of_ne hF
    rw [answers_iff_of_exec (exec_pack F s), outPat_pack_implicit hx, ofNat_uint32B, packSig_eq, hx, if_neg Bool.false_ne_true, bitsA_eq,
      BitVec.ofNat_toNat, BitVec.setWidth_eq]
    rfl
  · have hsig : packSig .f80 s = bitsA 64 s := rfl
    rw [answers_iff_of_exec (exec_pack .f80 s), outPat_pack_f80, ofNat_uint32B, hsig, bitsA_eq, BitVec.ofNat_toNat, BitVec.setWidth_eq]
    rfl

/-! ## Packing and unpacking (R149) -/

/-- A pattern as the number its three fields make. -/
theorem toNat_eq_fields {F : Fmt} {a : Pat} (ha : a.toNat < 2 ^ F.K) :
    a.toNat = 2 ^ F.M * (2 ^ F.EW * (sign F a).toNat + expf F a) + sigf F a := by
  have hs : (sign F a).toNat = a.toNat / 2 ^ F.M / 2 ^ F.EW := by
    rw [Nat.div_div_eq_div_mul, ← pow_add]
    have hK : F.K - 1 = F.M + F.EW := by rw [Fmt.K_eq]; rfl
    rw [sign, BitVec.getLsbD, hK, Nat.toNat_testBit, Nat.mod_eq_of_lt]
    rwa [Nat.div_lt_iff_lt_mul (by positivity), mul_comm, ← pow_succ, ← Fmt.K_eq]
  rw [hs, expf, sigf, Nat.div_add_mod, Nat.div_add_mod]

/-- A pattern of the format is determined by its three fields. -/
theorem pat_ext {F : Fmt} {a b : Pat} (ha : a.toNat < 2 ^ F.K) (hb : b.toNat < 2 ^ F.K) (hs : sign F a = sign F b) (he : expf F a = expf F b)
    (hm : sigf F a = sigf F b) : a = b := by
  apply BitVec.eq_of_toNat_eq
  rw [toNat_eq_fields ha, toNat_eq_fields hb, hs, he, hm]

theorem pack_fields_self {F : Fmt} {a : Pat} (ha : a.toNat < 2 ^ F.K) : pack F (sign F a) (expf F a) (sigf F a) = a := by
  obtain ⟨hs, he, hm⟩ := pack_fields F (sign F a) (expf F a) (sigf F a) (expf_lt F a) (sigf_lt F a)
  exact pat_ext (pack_lt F _ _ _) ha hs he hm

/-- The operand `B` of the packer: the exponent below, the sign in bit 32. -/
def packB (p : Bool) (e : ℕ) : Wide := BitVec.ofNat 256 (p.toNat * 2 ^ 32 + e)

section
variable (s : State) (a : Wide) (c : Pat) (p : Bool) {e : ℕ} (he : e < 2 ^ 32)
include he

theorem toNat_packB : (packB p e).toNat = p.toNat * 2 ^ 32 + e := by
  have := Bool.toNat_le p
  rw [packB, BitVec.toNat_ofNat, Nat.mod_eq_of_lt (by omega)]

theorem signB_withOperands_packB : signB (s.withOperands a (packB p e) c) = p := by
  show (packB p e).getLsbD 32 = p
  rw [BitVec.getLsbD, toNat_packB p he, mul_comm, Nat.testBit_two_pow_mul_add _ he]
  cases p <;> rfl

theorem uint32B_withOperands_packB : uint32B (s.withOperands a (packB p e) c) = e := by
  show (packB p e).toNat % 2 ^ 32 = e
  rw [toNat_packB p he, Nat.mul_add_mod_self_right, Nat.mod_eq_of_lt he]

end

/-- The answers of `XSIGN` and `XEXP`, laid out on `B` as `PACK` reads them (R148). -/
theorem shiftLeft_or_eq_packB (p : Bool) {k e : ℕ} (hk : k ≤ 32) (he : e < 2 ^ k) : outBool p <<< 32 ||| outBits k e = packB p e := by
  have h32 := he.trans_le (Nat.pow_le_pow_right two_pos hk)
  have hp : (outBool p <<< 32).toNat = p.toNat <<< 32 := by cases p <;> rfl
  apply BitVec.eq_of_toNat_eq
  rw [BitVec.toNat_or, hp, toNat_outBits_of_lt (hk.trans (by norm_num)) he, toNat_packB p h32, ← Nat.shiftLeft_add_eq_or_of_lt h32, Nat.shiftLeft_eq]

theorem packSig_withOperands {F : Fmt} (s : State) {m : ℕ} (hm : m < 2 ^ F.M) (b : Wide) (c : Pat) :
    packSig F (s.withOperands (BitVec.ofNat 256 m) b c) = m := by
  have hM : F.M ≤ (if F.explicitBit then 64 else F.K) ∧ F.M ≤ 256 := by cases F <;> decide
  rw [packSig_eq]
  show (BitVec.ofNat 256 m).toNat % _ = m
  rw [BitVec.toNat_ofNat, Nat.mod_eq_of_lt (hm.trans_le (Nat.pow_le_pow_right two_pos hM.2)),
    Nat.mod_eq_of_lt (hm.trans_le (Nat.pow_le_pow_right two_pos hM.1))]

/-- `PACK` of three fields in range, each laid out on its operand. -/
theorem answers_pack (F : Fmt) (s : State) (p : Bool) {e m : ℕ} (he : e < 2 ^ F.EW) (hm : m < 2 ^ F.M) (c : Pat) :
    Answers (Row.pack F) (s.withOperands (BitVec.ofNat 256 m) (packB p e) c) (outPat F (pack F p e m)) 0 0 := by
  have h32 := he.trans_le (Nat.pow_le_pow_right two_pos F.EW_le)
  rw [answers_iff_of_exec (exec_pack F _), signB_withOperands_packB s _ c p h32, uint32B_withOperands_packB s _ c p h32, packSig_withOperands s hm]

theorem outPat_patA (F : Fmt) (s : State) : outPat F (patA F s) = (s.request.a.setWidth F.K).setWidth 256 := by
  rw [outPat, patA, BitVec.setWidth_setWidth_of_le _ F.K_le, BitVec.setWidth_eq]

/-- Settles O31. A pattern's fields are in range, so both directions are `answers_pack`: packing a pattern's own fields gives the pattern
(`pack_fields_self`), and a packed triple has the fields it was packed from (`pack_fields`). -/
theorem packRoundTrip : Obligations.PackRoundTrip := by
  refine ⟨fun F s => ⟨_, _, _, exec_xsign F s, exec_xexp F s, exec_xsig F s, fun c => ?_⟩, fun F s p e m b c he hm => ?_⟩
  · have he := expf_lt F (patA F s)
    have hm := sigf_lt F (patA F s)
    have h := answers_pack F s (sign F (patA F s)) he hm c
    rw [pack_fields_self (patA_lt F s), outPat_patA] at h
    rwa [shiftLeft_or_eq_packB _ F.EW_le he, outBits_of_lt hm]
  · have hA := patA_withOperands_outPat F (pack F p e m) (pack_lt F p e m) b c s
    obtain ⟨hs, hx, hf⟩ := pack_fields F p e m he hm
    refine ⟨_, answers_pack F s p he hm c, ?_, ?_, ?_⟩
    · rw [answers_iff_of_exec (exec_xsign F _), hA, hs]
      rfl
    · rw [answers_iff_of_exec (exec_xexp F _), hA, hx, outBits_of_lt he]
    · rw [answers_iff_of_exec (exec_xsig F _), hA, hf, outBits_of_lt hm]

/-! ## Flushing a subnormal operand (R152) -/

theorem flushes_iff {ctl : Word} {F : Fmt} {a : Pat} :
    (ctlFIZ ctl && isSubnormal F a) = true ↔ ctlFIZ ctl = true ∧ expf F a = 0 ∧ sigf F a ≠ 0 := by simp [isSubnormal]

theorem squash_of_flushes {ctl : Word} {F : Fmt} {a : Pat} (h : ctlFIZ ctl = true ∧ expf F a = 0 ∧ sigf F a ≠ 0) :
    squash ctl F a = zero F (sign F a) ∧ squashFlag ctl F a = Flag.inputDenormal := by
  rw [squash, squashFlag, flushes_iff.mpr h]
  exact ⟨rfl, rfl⟩

theorem squash_of_not_flushes {ctl : Word} {F : Fmt} {a : Pat} (h : ¬(ctlFIZ ctl = true ∧ expf F a = 0 ∧ sigf F a ≠ 0)) :
    squash ctl F a = a ∧ squashFlag ctl F a = 0 := by
  rw [squash, squashFlag, Bool.eq_false_iff.mpr (mt flushes_iff.mp h)]
  exact ⟨rfl, rfl⟩

theorem isFinite_of_expf_eq_zero {F : Fmt} {a : Pat} (h : expf F a = 0) : isFinite F a = true := by
  have := Fmt.emaxf_ge F
  rw [isFinite, h, bne_iff_ne]
  omega

theorem valQ_eq_zero_iff_of_expf_eq_zero {F : Fmt} {a : Pat} (he : expf F a = 0) : valQ F a = 0 ↔ sigf F a = 0 := by
  rw [← isValZero_iff, isValZero, magSig, he]
  simp

theorem extLt_of_finite {F : Fmt} {a b : Pat} (ha : isFinite F a = true) (hb : isFinite F b = true) :
    extLt F a b = decide (valQ F a < valQ F b) := by
  obtain ⟨ha, -⟩ := (isFinite_iff F a).mp ha
  obtain ⟨hb, -⟩ := (isFinite_iff F b).mp hb
  rw [Bool.eq_iff_iff, extLt_iff, ExtLt, ha, hb]
  simp

/-- R291: two finite patterns compare as their values do, and raise no flag. -/
theorem compareSquashed_of_finite (pol : Config.NanPolicy) {F : Fmt} (q : Bool) {a b : Pat} (ha : isFinite F a = true) (hb : isFinite F b = true) :
    compareSquashed pol F q a b =
      { val := if valQ F a < valQ F b then .less else if valQ F b < valQ F a then .greater else .equal, flags := 0 } := by
  obtain ⟨-, hna⟩ := (isFinite_iff F a).mp ha
  obtain ⟨-, hnb⟩ := (isFinite_iff F b).mp hb
  rw [compareSquashed, hna, hnb, relation, extLt_of_finite ha hb, extLt_of_finite hb ha]
  simp

theorem expf_plus_zero (F : Fmt) : expf F 0 = 0 := by simp [expf]
theorem sigf_plus_zero (F : Fmt) : sigf F 0 = 0 := by simp [sigf]

/-- Comparing with `+0` compares the value of the operand, squashed, with zero. -/
theorem compare_plus_zero (pol : Config.NanPolicy) (ctl : Word) {F : Fmt} (q : Bool) {a : Pat} (ha : isFinite F (squash ctl F a) = true) :
    compare pol ctl F q a 0 =
      { val := if valQ F (squash ctl F a) < 0 then .less else if 0 < valQ F (squash ctl F a) then .greater else .equal
        flags := squashFlag ctl F a } := by
  obtain ⟨hsq, hfl⟩ := squash_of_not_flushes (ctl := ctl) fun ⟨_, _, hm⟩ => hm (sigf_plus_zero F)
  have hv : valQ F 0 = 0 := (valQ_eq_zero_iff_of_expf_eq_zero (expf_plus_zero F)).mpr (sigf_plus_zero F)
  rw [compare, hsq, hfl, compareSquashed_of_finite pol q ha (isFinite_of_expf_eq_zero (expf_plus_zero F)), hv]
  simp [Flagged.raise]

/-- R296: `FCMP` against `+0`. -/
theorem answers_fcmp_plus_zero {F : Fmt} (q : Bool) {s : State} (hb : s.request.b = 0) {v : Flagged Verdict}
    (hv : compare nanPolicy s.ctl F q (patA F s) 0 = v) : Answers (Row.fcmp F q) s (BitVec.ofNat 256 v.val.code) 0 v.flags := by
  have hB : patB F s = 0 := by simp [patB, hb]
  have hx := exec_fcmp F q s
  rw [fcmpOp, hB, hv, outBits_code] at hx
  exact hx

/-- Settles O32, by the two cases of `Squash`; a subnormal pattern that is kept has a value other than zero, with the sign of its sign bit, and is so
compared with `+0`. (The short name `squash` is the model's function.) -/
theorem PackUnpack.squash : Obligations.Squash := by
  refine ⟨fun F ctl a => ⟨fun hfl => ?_, squash_of_not_flushes⟩, fun F q s he hm hb => ⟨fun hf => ?_, fun hf => ?_⟩⟩
  · obtain ⟨hsq, hflag⟩ := squash_of_flushes hfl
    rw [hsq]
    exact ⟨rfl, hflag, zero_fields F (sign F a)⟩
  · obtain ⟨hsq, hfl⟩ := squash_of_flushes ⟨hf, he, hm⟩
    have hfin : isFinite F (zero F (sign F (patA F s))) = true := isFinite_of_expf_eq_zero (zero_fields F _).2.1
    have h := answers_fcmp_plus_zero q hb (compare_plus_zero nanPolicy s.ctl q (hsq ▸ hfin))
    rw [hsq, hfl, valQ_zero, if_neg (lt_irrefl _), if_neg (lt_irrefl _)] at h
    exact h
  · obtain ⟨hsq, hfl⟩ := squash_of_not_flushes (F := F) (a := patA F s) fun ⟨hf', _⟩ => Bool.false_ne_true (hf.symm.trans hf')
    have hne : valQ F (patA F s) ≠ 0 := mt (valQ_eq_zero_iff_of_expf_eq_zero he).mp hm
    have h := answers_fcmp_plus_zero q hb (compare_plus_zero nanPolicy s.ctl q (hsq ▸ isFinite_of_expf_eq_zero he))
    rw [hsq, hfl] at h
    rcases lt_or_gt_of_ne hne with hneg | hpos
    · rw [if_pos hneg] at h
      rw [sign_of_valQ_neg hneg]
      exact h
    · rw [if_neg hpos.not_gt, if_pos hpos] at h
      rw [sign_of_valQ_pos hpos]
      exact h

end Machine
end Sys2Proof
end

section
/-!
SUPPORT. The rounding engine at the ports (spec/42_round_pack.md): what `RPACK`, `NRPACK` and `RPACKI` answer, drawn from the laws of the engine's parts
(Laws/Engine.lean, Laws/Rounding.lean): the overflow branch and the largest finite value (R175, R181), the subnormal branch (R176), the normalising shift
(R183) and the saturation (R185).
-/

namespace Sys2Proof.Machine

/-! ## `RPACK` with legal codes -/

/-- Step S0 passed, `RPACK` answers the rest of the listing, run on the fields of the ports (R170). -/
theorem answers_rpack {F : Fmt} {s : State} {mode : RMode} {ftz : Bool} {v : Flagged Pat} (hl : LegalFor F s.ctl) (hm : modeOf (s.ctl.toNat % 8) = some mode)
    (hf : s.ctl.getLsbD 4 = ftz)
    (hv : roundPackWith F (discarded s.ctl F) mode (s.ctl.getLsbD 3) ftz (s.request.b.getLsbD 32) (s.request.b.setWidth 32).toInt
      (s.request.a.setWidth F.W).toNat = v) : Answers (Row.rpack F) s (outPat F v.val) 0 v.flags := by
  have h := exec_rpack F s
  rw [rpackOp, rpack_eq s.ctl F mode hl hm, bitsA_eq] at h
  rw [← hv, ← hf]
  exact h

/-- A count of discarded bits with which the laws of the engine hold: the format's own, in F80 possibly more of them (R181), and at least the two that
R179 asks for. -/
def GuardCount (F : Fmt) (Ge : ℕ) : Prop := F.G ≤ Ge ∧ (F.explicitBit = false → Ge = F.G) ∧ Ge + 1 ≤ F.N ∧ 2 ≤ Ge

theorem guardCount_discarded {ctl : Word} {F : Fmt} (hl : LegalFor F ctl) : GuardCount F (discarded ctl F) := by
  obtain ⟨h1, h2, -, h4, h5⟩ := discarded_bounds ctl F hl.2
  exact ⟨h1, h2, by omega, h4⟩

/-! ## Correct rounding (R179) -/

/-- The number behind an engine input, in units of the exponent `E` at which it is rounded, `k` bits discarded. -/
theorem engVal_div_unit (t : ℝ) (z E b n : ℤ) (k : ℕ) : t * 2 ^ (z + 1 - b - n) / 2 ^ (E + 1 - b - n + k) = t * 2 ^ (z - E) / 2 ^ k := by
  rw [← zpow_natCast 2 k, mul_div_assoc, mul_div_assoc, ← zpow_sub₀ two_ne_zero, ← zpow_sub₀ two_ne_zero]
  congr 2
  ring

/-- Settles O33: `roundPackWith_value` at the ports, the number behind the input being counted in units of the final exponent (`engVal_div_unit`). -/
theorem roundsCorrectly : Obligations.RoundsCorrectly := by
  intro F s mode t Ge zSig zExp sgn v u hl hm ht hz hs hn ho hf
  obtain ⟨p, q, m, hv, hp, hsgn, hfin, hval, hq, hinexact, hoverflow, -, hcanon⟩ :=
    roundPackWith_value F Ge (guardCount_discarded hl) mode (s.ctl.getLsbD 3) (s.ctl.getLsbD 4) sgn zExp zSig ht hz hs hn ho hf
  have hunits : v / u = t * 2 ^ (zExp - max zExp 0) / 2 ^ Ge := engVal_div_unit t zExp (max zExp 0) F.bias F.N Ge
  have hu : u ≠ 0 := by positivity
  have habs : |(valQ F p : ℝ)| = q * u := by
    have h := congrArg (Rat.cast : ℚ → ℝ) hval
    push_cast at h
    exact h
  refine ⟨p, q, m, answers_rpack hl hm rfl hv, hp, hsgn, hfin, habs, hunits ▸ hq, ?_, hoverflow, fun h80 => hcanon (h80 ▸ rfl)⟩
  rw [hinexact, habs, ← hunits, Ne, eq_div_iff hu]

/-! ## Overflow (R175) -/

theorem roundPackWith_overflow {F : Fmt} {Ge : ℕ} {mode : RMode} {tin ftz sgn : Bool} {zExp : ℤ} {zSig : ℕ}
    (h : (F.emaxf : ℤ) - 2 < zExp ∨ (zExp = (F.emaxf : ℤ) - 2 ∧ 2 ^ (F.N + 1) ≤ zSig + roundInc mode sgn Ge)) :
    roundPackWith F Ge mode tin ftz sgn zExp zSig =
      { val := if overflowToInf mode sgn then inf F sgn else maxFiniteAt F sgn Ge, flags := Flag.overflow ||| Flag.inexact } := if_pos h

theorem overflowToInf_eq (mode : RMode) (sgn : Bool) :
    overflowToInf mode sgn = (mode == .ne || mode == .na || (mode == .tp && !sgn) || (mode == .tn && sgn)) := by
  cases mode <;> cases sgn <;> rfl

/-- A mode that gives the largest finite value on overflow adds nothing to the significand. -/
theorem roundInc_of_not_overflowToInf {mode : RMode} {sgn : Bool} (h : overflowToInf mode sgn = false) (Ge : ℕ) : roundInc mode sgn Ge = 0 := by
  cases mode <;> cases sgn <;> first | rfl | cases h

/-- The largest finite value as R175 and R181 write it, by format and `CTL.RP`. -/
theorem maxFiniteAt_discarded {ctl : Word} {F : Fmt} (hl : LegalFor F ctl) (sgn : Bool) :
    maxFiniteAt F sgn (discarded ctl F) =
      if F = .f80 then pack F sgn 0x7FFE ([0xFFFFFFFFFFFFFFFF, 0xFFFFFFFFFFFFF800, 0xFFFFFF0000000000].getD (ctl.toNat / 64 % 4) 0)
      else maxFinite F sgn := by
  by_cases hF : F = .f80
  · subst hF
    have hk : ctl.toNat / 64 % 4 ≤ 2 := hl.2 rfl
    have hN : Fmt.f80.N = 126 := rfl
    have hE : Fmt.f80.emaxf - 1 = 0x7FFE := by decide
    have hx : Fmt.f80.explicitBit = true := rfl
    rw [if_pos rfl, discarded, if_pos rfl, maxFiniteAt, if_pos hx, hN, hE]
    congr 1
    generalize ctl.toNat / 64 % 4 = k at hk ⊢
    interval_cases k <;> rfl
  · rw [if_neg hF, maxFiniteAt, Fmt.explicitBit_of_ne hF, if_neg Bool.false_ne_true]

/-- The largest finite value is the significand of all ones, finished at the largest exponent. -/
theorem finish_allOnes {F : Fmt} {Ge : ℕ} (hG : GuardCount F Ge) (sgn : Bool) :
    finish F sgn (F.emaxf - 2) (2 ^ (F.N - Ge + 1) - 1) Ge = maxFiniteAt F sgn Ge := by
  obtain ⟨hG1, hG2, hG3, -⟩ := hG
  rcases hF : F.explicitBit with _ | _
  · have hM : F.M = F.FB := by simp [Fmt.FB, hF]
    have hN : F.N - Ge = F.M := by rw [hG2 hF, Fmt.N_eq, hM]; omega
    obtain ⟨e, he⟩ : ∃ e, F.emaxf = e + 2 := ⟨F.emaxf - 2, by have := F.emaxf_ge; omega⟩
    have hsum : e * 2 ^ F.M + (2 ^ (F.M + 1) - 1) = (e + 1) * 2 ^ F.M + (2 ^ F.M - 1) := by
      have := Nat.two_pow_pos F.M
      rw [pow_succ, Nat.add_mul]
      omega
    simp only [finish, maxFiniteAt, maxFinite, pack, hF, hN, he, Bool.false_eq_true, if_false, Nat.add_assoc, Nat.add_sub_cancel,
      show e + 2 - 1 = e + 1 from rfl, hsum]
  · obtain rfl : F = .f80 := by by_contra hne; rw [Fmt.explicitBit_of_ne hne] at hF; cases hF
    have hG4 : 63 ≤ Ge := hG1
    have hG5 : Ge ≤ 125 := Nat.le_of_succ_le_succ hG3
    have hz : 2 ^ 63 ≤ (2 ^ (126 - Ge + 1) - 1) * 2 ^ (Ge - 63) ∧ (2 ^ (126 - Ge + 1) - 1) * 2 ^ (Ge - 63) < 2 ^ 64 := by
      have hle : 2 ^ (Ge - 63) ≤ 2 ^ 63 := Nat.pow_le_pow_right two_pos (by omega)
      have hpos := Nat.two_pow_pos (Ge - 63)
      rw [Nat.sub_mul, ← pow_add, show 126 - Ge + 1 + (Ge - 63) = 64 by omega]
      omega
    have hone : (2 ^ (126 - Ge + 1) - 1) * 2 ^ (Ge - 63) / 2 ^ 63 = 1 := by omega
    have hN : Fmt.f80.N = 126 := rfl
    simp only [finish, maxFiniteAt, hF, if_true, hN, hone, if_neg hz.2.not_ge]
    rfl

/-- A normalised significand that does not carry keeps its leading bit in place. -/
theorem roundSig_bounds {F : Fmt} {Ge : ℕ} (hG : GuardCount F Ge) {mode : RMode} {sgn : Bool} {zSig : ℕ} (h1 : 2 ^ F.N ≤ zSig)
    (h2 : zSig + roundInc mode sgn Ge < 2 ^ (F.N + 1)) :
    2 ^ (F.N - Ge) ≤ roundSig mode sgn Ge zSig ∧ roundSig mode sgn Ge zSig < 2 ^ (F.N - Ge + 1) := by
  obtain ⟨-, -, hG3, hG4⟩ := hG
  constructor
  · have hd : 2 ^ (F.N - Ge) ≤ zSig / 2 ^ Ge := by
      rw [Nat.le_div_iff_mul_le (by positivity), ← pow_add, show F.N - Ge + Ge = F.N by omega]
      exact h1
    rcases roundSig_near mode sgn Ge (by omega) zSig with h | h <;> omega
  · exact roundSig_lt mode sgn Ge (F.N - Ge) zSig (by rwa [show F.N - Ge + 1 + Ge = F.N + 1 by omega])

/-- At the largest exponent, a normalised input that does not carry is rounded there, with `INEXACT` at most. -/
theorem roundPackWith_largest {F : Fmt} {Ge : ℕ} (hG : GuardCount F Ge) {mode : RMode} (tin ftz : Bool) {sgn : Bool} {zSig : ℕ} (h1 : 2 ^ F.N ≤ zSig)
    (h2 : zSig + roundInc mode sgn Ge < 2 ^ (F.N + 1)) :
    roundPackWith F Ge mode tin ftz sgn ((F.emaxf : ℤ) - 2) zSig =
      { val := finish F sgn (F.emaxf - 2) (roundSig mode sgn Ge zSig) Ge, flags := if zSig % 2 ^ Ge = 0 then 0 else Flag.inexact } := by
  have hem := F.emaxf_ge
  have hE : ((F.emaxf : ℤ) - 2).toNat = F.emaxf - 2 := by omega
  have hneg : ¬(F.emaxf : ℤ) - 2 < 0 := by omega
  have hq : roundSig mode sgn Ge zSig ≠ 0 := by
    have hlow := (roundSig_bounds hG h1 h2).1
    have := Nat.two_pow_pos (F.N - Ge)
    omega
  rw [roundPackWith_eq F Ge mode tin ftz sgn _ zSig (by omega) (by omega)]
  simp only [hneg, hq, hE, if_false, decide_false, Bool.false_and]
  by_cases hb : zSig % 2 ^ Ge = 0 <;> simp [hb, flagIf]

/-- The largest exponent holds no number larger than the largest finite value. -/
theorem finish_le_maxFiniteAt {F : Fmt} {Ge : ℕ} (hG : GuardCount F Ge) (sgn : Bool) {q : ℕ} (h1 : 2 ^ (F.N - Ge) ≤ q) (h2 : q < 2 ^ (F.N - Ge + 1)) :
    isFinite F (finish F sgn (F.emaxf - 2) q Ge) = true ∧ sign F (finish F sgn (F.emaxf - 2) q Ge) = sgn ∧
      |valQ F (finish F sgn (F.emaxf - 2) q Ge)| ≤ |valQ F (maxFiniteAt F sgn Ge)| := by
  have hGe : F.G ≤ Ge ∧ (F.explicitBit = false → Ge = F.G) ∧ Ge ≤ F.N := ⟨hG.1, hG.2.1, Nat.le_of_succ_le hG.2.2.1⟩
  obtain ⟨hsgn, hfin, hval, -⟩ := finish_value F Ge hGe sgn (F.emaxf - 2) q h2.le (.inr h1) le_rfl fun _ => h2
  obtain ⟨-, -, hmax, -⟩ := finish_value F Ge hGe sgn (F.emaxf - 2) (2 ^ (F.N - Ge + 1) - 1) (Nat.sub_le _ _) (.inr (by omega)) le_rfl fun _ => by omega
  refine ⟨hfin, hsgn, ?_⟩
  rw [← finish_allOnes hG, hval, hmax]
  gcongr
  exact Nat.le_sub_one_of_lt h2

/-- Settles O34: the overflow branch (`roundPackWith_overflow`), and at the largest exponent the rounding with nothing added, which cannot carry
(`roundPackWith_largest`, `finish_le_maxFiniteAt`). -/
theorem engineOverflow : Obligations.EngineOverflow := by
  intro F s mode Ge zSig zExp sgn toInf largest hl hm
  have htoInf : overflowToInf mode sgn = toInf := overflowToInf_eq mode sgn
  have hlargest : maxFiniteAt F sgn Ge = largest := maxFiniteAt_discarded hl sgn
  have hinc : toInf = false → roundInc mode sgn Ge = 0 := fun h => roundInc_of_not_overflowToInf (htoInf.trans h) Ge
  refine ⟨fun ho => ?_, hinc, fun h hE h1 h2 => ?_⟩
  · have h := answers_rpack hl hm rfl (roundPackWith_overflow ho)
    rwa [htoInf, hlargest] at h
  · have hG := guardCount_discarded hl
    have hcarry : zSig + roundInc mode sgn Ge < 2 ^ (F.N + 1) := by rwa [hinc h]
    have hv := roundPackWith_largest hG (s.ctl.getLsbD 3) (s.ctl.getLsbD 4) h1 hcarry
    rw [← hE] at hv
    obtain ⟨hlow, hhigh⟩ := roundSig_bounds hG h1 hcarry
    rw [← hlargest]
    exact ⟨_, answers_rpack hl hm rfl hv, finish_le_maxFiniteAt hG sgn hlow hhigh⟩

/-! ## The subnormal range (R176) -/

/-- The jamming shift keeps what rounding needs to know of the bits it drops: whether they are all zero. -/
theorem shrjam_mod_eq_zero_iff (x n : ℕ) {k : ℕ} (hk : 1 ≤ k) : shrjam x n % 2 ^ k = 0 ↔ x % 2 ^ (n + k) = 0 := by
  have hx : (0 : ℝ) ≤ x := x.cast_nonneg
  rw [mod_eq_zero_iff_of_jam k hk (by positivity) ((isJam_natCast x).shrjam hx n), mod_eq_zero_iff_of_jam (n + k) (by omega) hx (isJam_natCast x),
    div_div, pow_add]

theorem roundPackWith_flushed {F : Fmt} {Ge : ℕ} {mode : RMode} {tin sgn : Bool} {zExp : ℤ} {zSig : ℕ} (h : zExp < 0) :
    roundPackWith F Ge mode tin true sgn zExp zSig = { val := zero F sgn, flags := Flag.outputDenormal } := by
  have := F.emaxf_ge
  exact (if_neg (by omega)).trans (if_pos ⟨h, rfl⟩)

/-- Below the smallest normal exponent and not flushed: the jammed significand rounded at exponent 0, and the two flags. -/
theorem roundPackWith_subnormal {F : Fmt} {Ge : ℕ} {mode : RMode} {tin sgn : Bool} {zExp : ℤ} {zSig : ℕ} (hG : 1 ≤ Ge) (h : zExp < 0) :
    roundPackWith F Ge mode tin false sgn zExp zSig =
      { val := finish F sgn 0 (roundSig mode sgn Ge (shrjam zSig (-zExp).toNat)) Ge
        flags := if zSig % 2 ^ ((-zExp).toNat + Ge) = 0 then 0
          else if tin = false ∨ zExp < -1 ∨ zSig + roundInc mode sgn Ge < 2 ^ (F.N + 1) then Flag.underflow ||| Flag.inexact else Flag.inexact } := by
  have hem := F.emaxf_ge
  rw [roundPackWith_eq F Ge mode tin false sgn zExp zSig (by omega) (by simp)]
  have hE : zExp.toNat = 0 := Int.toNat_of_nonpos h.le
  have htiny : (!tin || decide (zExp < -1) || decide (zSig + roundInc mode sgn Ge < 2 ^ (F.N + 1))) =
      decide (tin = false ∨ zExp < -1 ∨ zSig + roundInc mode sgn Ge < 2 ^ (F.N + 1)) := by cases tin <;> simp
  simp only [h, if_true, decide_true, Bool.true_and, hE, ite_self, ← shrjam_mod_eq_zero_iff _ _ hG, htiny]
  congr 1
  split_ifs with hb ht <;> simp [*, flagIf]

/-- Settles O35: the flush (`roundPackWith_flushed`), and the three cases of the flags of a result that is not flushed (`roundPackWith_subnormal`). -/
theorem subnormalRange : Obligations.SubnormalRange := by
  intro F s mode Ge zSig zExp sgn deficit tiny p hl hm hneg
  obtain ⟨-, -, -, hG⟩ := guardCount_discarded hl
  have hsub := fun hf : s.ctl.getLsbD 4 = false => answers_rpack hl hm hf (roundPackWith_subnormal (by omega) hneg)
  refine ⟨fun hf => answers_rpack hl hm hf (roundPackWith_flushed hneg), fun hf hb => ?_, fun hf hb ht => ?_, fun hf hb ht => ?_⟩
  · have h := hsub hf
    rw [if_pos hb] at h
    exact h
  · have h := hsub hf
    rw [if_neg hb, if_pos ht] at h
    exact h
  · have h := hsub hf
    rw [if_neg hb, if_neg ht] at h
    exact h

/-! ## `NRPACK` (R183) -/

theorem nrpack_of_ne_zero {ctl : Word} {F : Fmt} {sgn : Bool} {zExp : ℤ} {zSig : ℕ} (h : zSig ≠ 0) :
    nrpack ctl F sgn zExp zSig = rpack ctl F sgn (zExp - (F.N - msb zSig : ℕ)) (zSig * 2 ^ (F.N - msb zSig)) := by
  unfold nrpack
  rcases rpack ctl F sgn (zExp - (F.N - msb zSig : ℕ)) (zSig * 2 ^ (F.N - msb zSig)) with c | v
  · rfl
  · exact congrArg Except.ok (if_neg h)

theorem nrpack_zero {ctl : Word} {F : Fmt} (hl : LegalFor F ctl) (sgn : Bool) (zExp : ℤ) :
    nrpack ctl F sgn zExp 0 = .ok { val := zero F sgn, flags := 0 } := by
  obtain ⟨v, hv⟩ := rpack_legal hl sgn (zExp - (F.N - msb 0 : ℕ)) (0 * 2 ^ (F.N - msb 0))
  rw [nrpack, hv]
  rfl

theorem delivers_nrpack (F : Fmt) (s : State) :
    Delivers (Row.nrpack F) s F 0 (nrpack s.ctl F (s.request.b.getLsbD 32) (s.request.b.setWidth 32).toInt (s.request.a.setWidth F.W).toNat) :=
  delivers_of_completePat_zero (bitsA_eq F.W s ▸ exec_nrpack F s)

/-- Settles O37: the shift is `mul_two_pow_leadingZeros`, none at all when the headroom bit is set, and `NRPACK` is then `RPACK` (`nrpack_of_ne_zero`). -/
theorem normaliseRoundPack : Obligations.NormaliseRoundPack := by
  intro F s zSig zExp sgn
  have hrun : Delivers (Row.nrpack F) s F 0 (nrpack s.ctl F sgn zExp zSig) := delivers_nrpack F s
  refine ⟨fun hl => ((engineFaults.1 F s).1 hl).2, fun hl h0 => ?_, fun h0 hlt => ?_, fun hge => ?_⟩
  · rw [h0, nrpack_zero hl] at hrun
    simpa [Delivers] using hrun
  · obtain ⟨-, hlow, hhigh⟩ := mul_two_pow_leadingZeros h0 hlt
    rw [nrpack_of_ne_zero h0] at hrun
    exact ⟨F.N - msb zSig, hlow, hhigh, hrun⟩
  · have h0 : zSig ≠ 0 := by have := Nat.two_pow_pos (F.N + 1); omega
    have hmsb : F.N + 1 ≤ msb zSig := (Nat.le_log2 h0).mpr hge
    have hk : F.N - msb zSig = 0 := by omega
    rw [nrpack_of_ne_zero h0, hk, pow_zero, mul_one, Nat.cast_zero, sub_zero] at hrun
    exact hrun

/-! ## `RPACKI` (R185) -/

theorem imin_eq (T : IntTy) : imin T = -(intMin T : ℤ) := by cases T <;> rfl

theorem imax_eq (T : IntTy) : imax T = intMax T := by cases T <;> rfl

theorem intMin_le (T : IntTy) : intMin T ≤ 2 ^ T.width := by cases T <;> decide

/-- A result on the port is the integer it stands for, modulo `2^w`. -/
theorem outBits_eq_intBits {T : IntTy} {n : ℕ} {v : ℤ} (h : (n : ℤ) % 2 ^ T.width = v % 2 ^ T.width) : outBits T.width n = intBits T v := by
  rw [intBits, ← h, outBits]
  exact_mod_cast (BitVec.ofInt_natCast 256 (n % 2 ^ T.width)).symm

theorem intMin_emod (T : IntTy) : (intMin T : ℤ) % 2 ^ T.width = imin T % 2 ^ T.width := by cases T <;> rfl

theorem sub_emod_eq_neg_emod {w q : ℕ} (h : q ≤ 2 ^ w) : (((2 ^ w - q) % 2 ^ w : ℕ) : ℤ) % 2 ^ w = -(q : ℤ) % 2 ^ w := by
  push_cast [h]
  rw [Int.emod_emod, sub_eq_neg_add, Int.add_emod_right]

/-- A positive magnitude saturates at the greatest integer of the type, signed or not. -/
theorem rpackiWith_pos (mode : RMode) (T : IntTy) (absZ : ℕ) :
    rpackiWith mode T false absZ =
      if intMax T < roundSig mode false 64 absZ then { val := intMax T, flags := Flag.invalid }
      else { val := roundSig mode false 64 absZ, flags := flagIf (absZ % 2 ^ 64 != 0) Flag.inexact } := by
  rcases hT : T.signed with _ | _ <;> simp [rpackiWith, intMax, hT]

/-- A negative magnitude saturates at the least integer of the type, which is 0 for an unsigned one. -/
theorem rpackiWith_neg (mode : RMode) (T : IntTy) (absZ : ℕ) :
    rpackiWith mode T true absZ =
      if intMin T < roundSig mode true 64 absZ then { val := intMin T, flags := Flag.invalid }
      else { val := (2 ^ T.width - roundSig mode true 64 absZ) % 2 ^ T.width, flags := flagIf (absZ % 2 ^ 64 != 0) Flag.inexact } := by
  rcases hT : T.signed with _ | _
  · by_cases hq : roundSig mode true 64 absZ = 0 <;> simp [rpackiWith, intMin, hT, hq, Nat.pos_iff_ne_zero]
  · simp [rpackiWith, intMin, hT]

theorem answers_rpacki {T : IntTy} {s : State} {mode : RMode} {v : ℤ} {w : Flagged ℕ} (hm : modeOf (s.ctl.toNat % 8) = some mode)
    (hw : rpackiWith mode T (s.request.b.getLsbD 32) (s.request.a.setWidth 128).toNat = w)
    (hv : (w.val : ℤ) % 2 ^ T.width = v % 2 ^ T.width) : Answers (Row.rpacki T) s (intBits T v) 0 w.flags := by
  have h := exec_rpacki T s
  rw [rpackiOp, rpacki, readMode_eq s.ctl mode hm, bitsA_eq] at h
  rw [← outBits_eq_intBits hv, ← hw]
  exact h

/-- What `RPACKI` leaves of a signed result `v`: saturated below and above the type's range, itself modulo `2^w` within (R185). -/
theorem rpackiWith_cases (mode : RMode) (T : IntTy) (sgn : Bool) (absZ : ℕ) :
    let v : ℤ := if sgn then -(roundSig mode sgn 64 absZ : ℤ) else roundSig mode sgn 64 absZ
    (v < imin T → rpackiWith mode T sgn absZ = { val := intMin T, flags := Flag.invalid }) ∧
    (imax T < v → rpackiWith mode T sgn absZ = { val := intMax T, flags := Flag.invalid }) ∧
    (imin T ≤ v → v ≤ imax T → ∃ n : ℕ, rpackiWith mode T sgn absZ = { val := n, flags := flagIf (absZ % 2 ^ 64 != 0) Flag.inexact } ∧
      (n : ℤ) % 2 ^ T.width = v % 2 ^ T.width) := by
  intro v
  rw [imin_eq, imax_eq]
  rcases sgn with _ | _
  · have hv : v = roundSig mode false 64 absZ := rfl
    rw [rpackiWith_pos, hv]
    exact ⟨fun h => by omega, fun h => if_pos (by omega), fun _ h => ⟨_, if_neg (by omega), rfl⟩⟩
  · have hv : v = -roundSig mode true 64 absZ := rfl
    have hle := intMin_le T
    rw [rpackiWith_neg, hv]
    exact ⟨fun h => if_pos (by omega), fun h => by omega, fun h _ => ⟨_, if_neg (by omega), sub_emod_eq_neg_emod (by omega)⟩⟩

/-- Settles O38: the magnitude is rounded as a significand of 64 guard bits (`roundSig_rounds`), and the cases of the range are `rpackiWith_cases`. -/
theorem roundPackInteger : Obligations.RoundPackInteger := by
  intro T s x sgn
  refine ⟨(engineFaults.2 T s).1, fun mode hm => ?_⟩
  have hjam := isJam_natCast (s.request.a.setWidth 128).toNat
  have hpos := (s.request.a.setWidth 128).toNat.cast_nonneg (α := ℝ)
  have hexact := roundSig_exact_iff mode sgn 64 (by norm_num) hpos hjam
  obtain ⟨hbelow, habove, hin⟩ := rpackiWith_cases mode T sgn (s.request.a.setWidth 128).toNat
  refine ⟨_, roundSig_rounds mode sgn 64 (by norm_num) hpos hjam, fun h => ?_, fun h => ?_, fun h1 h2 hx => ?_, fun h1 h2 hx => ?_⟩
  · exact answers_rpacki hm (hbelow h) (intMin_emod T)
  · exact answers_rpacki hm (habove h) (congrArg (· % _) (imax_eq T).symm)
  · obtain ⟨n, hr, hn⟩ := hin h1 h2
    rw [hexact.mpr hx.symm] at hr
    exact answers_rpacki hm hr hn
  · obtain ⟨n, hr, hn⟩ := hin h1 h2
    rw [bne_iff_ne.mpr (mt hexact.mp (Ne.symm hx))] at hr
    exact answers_rpacki hm hr hn

end Sys2Proof.Machine
end

section
/-!
SUPPORT. NaNs under the default policy (spec/43_nan_policy.md): a NaN told by the bits of the port, what a propagation returns, and the quiet NaN in which
every arithmetic operation with a NaN operand ends.
-/

namespace Sys2Proof

/-- The quiet bit lies in the fraction. -/
theorem Fmt.qbit_lt_FB (F : Fmt) : F.qbit < F.FB := by cases F <;> decide
theorem Fmt.qbit_lt_M (F : Fmt) : F.qbit < F.M := F.qbit_lt_FB.trans_le F.FB_le_M

namespace Machine

/-! ## Detection (R204, R205) -/

theorem frac_patA (F : Fmt) (s : State) : frac F (patA F s) = (s.request.a.extractLsb' 0 F.FB).toNat := by
  rw [frac_eq, sigf_patA, BitVec.extractLsb'_toNat, BitVec.extractLsb'_toNat, Nat.mod_mod_of_dvd _ (pow_dvd_pow 2 F.FB_le_M)]

theorem getLsbD_qbit_patA (F : Fmt) (s : State) : (patA F s).getLsbD F.qbit = s.request.a.getLsbD F.qbit := by
  have hq : F.qbit < F.K ∧ F.qbit < 128 := by cases F <;> decide
  simp only [patA, BitVec.getLsbD_setWidth, hq, decide_true, Bool.true_and]

theorem isNaN_patA_iff (F : Fmt) (s : State) :
    isNaN F (patA F s) = true ↔ s.request.a.extractLsb' F.M F.EW = BitVec.allOnes F.EW ∧ s.request.a.extractLsb' 0 F.FB ≠ 0 := by
  simp only [isNaN, expf_patA, frac_patA, Fmt.emaxf, Bool.and_eq_true, beq_iff_eq, bne_iff_ne, ne_eq, ← BitVec.toNat_inj, BitVec.toNat_allOnes]
  rfl

/-- Settles O39: whether the operand is a NaN is read on the port (`isNaN_patA_iff`), and so is its quiet bit (`getLsbD_qbit_patA`). -/
theorem nanDetection : Obligations.NanDetection := by
  intro F s a nan
  have hs : isSNaN nanPolicy F (patA F s) = (isNaN F (patA F s) && !a.getLsbD F.qbit) := by rw [← getLsbD_qbit_patA]; rfl
  have hq : isQNaN nanPolicy F (patA F s) = (isNaN F (patA F s) && !!a.getLsbD F.qbit) := by rw [← getLsbD_qbit_patA]; rfl
  simp only [answers_iff_of_exec (exec_issnan F s), answers_iff_of_exec (exec_isqnan F s), hs, hq]
  refine ⟨fun hn hb => ?_, fun hn hb => ?_, fun hn => ?_⟩
  · rw [(isNaN_patA_iff F s).mpr hn, show a.getLsbD F.qbit = false from hb]
    exact ⟨rfl, rfl⟩
  · rw [(isNaN_patA_iff F s).mpr hn, show a.getLsbD F.qbit = true from hb]
    exact ⟨rfl, rfl⟩
  · rw [Bool.eq_false_iff.mpr (mt (isNaN_patA_iff F s).mp hn)]
    exact ⟨rfl, rfl⟩

/-! ## Propagation (R206, R207) -/

/-- R206: the first NaN operand made quiet, or the default NaN. -/
theorem propNaN2_nanPolicy (F : Fmt) (a b : Pat) :
    propNaN2 nanPolicy F a b =
      { val := if isNaN F a then defaultQuieten F a else if isNaN F b then defaultQuieten F b else defaultDefaultNan F
        flags := flagIf (isSNaN nanPolicy F a || isSNaN nanPolicy F b) Flag.invalid } := by
  cases ha : isNaN F a <;> cases hb : isNaN F b <;> simp [propNaN2, nanPolicy, defaultChoose2, picked, ha, hb]

/-- R207: the same of three operands, whatever `infzero` is. -/
theorem propNaN3_nanPolicy (F : Fmt) (a b c : Pat) (infzero : Bool) :
    propNaN3 nanPolicy F a b c infzero =
      { val := if isNaN F a then defaultQuieten F a else if isNaN F b then defaultQuieten F b else if isNaN F c then defaultQuieten F c
          else defaultDefaultNan F
        flags := flagIf (isSNaN nanPolicy F a || isSNaN nanPolicy F b || isSNaN nanPolicy F c) Flag.invalid } := by
  cases ha : isNaN F a <;> cases hb : isNaN F b <;> cases hc : isNaN F c <;> simp [propNaN3, nanPolicy, defaultChoose3, picked, ha, hb, hc]

/-- Settles O40: `propNaN2_nanPolicy` and `propNaN3_nanPolicy` at the ports, with the default NaN's pattern format by format. -/
theorem nanPropagation : Obligations.NanPropagation := by
  intro F infzero s a b c quiet snan dflt
  have hd : dflt = defaultDefaultNan F := by cases F <;> rfl
  have h2 := exec_propnan F s
  have h3 := exec_propnan3 F infzero s
  rw [propnan, propNaN2_nanPolicy] at h2
  rw [propnan3, propNaN3_nanPolicy] at h3
  rw [hd]
  exact ⟨h2, h3, exec_defnan F s⟩

/-! ## Absorption (R209) -/

/-- A pattern with all ones for its exponent and the quiet bit set is a NaN. -/
theorem isNaN_of_quiet {F : Fmt} {p : Pat} (he : expf F p = F.emaxf) (hq : p.getLsbD F.qbit = true) : isNaN F p = true := by
  have hbit : (frac F p).testBit F.qbit = true := by
    rw [frac, Nat.testBit_mod_two_pow, decide_eq_true F.qbit_lt_FB, Bool.true_and]
    exact hq
  have hne : frac F p ≠ 0 := fun h0 => by simp [h0] at hbit
  rw [isNaN, he, bne_iff_ne.mpr hne, beq_self_eq_true, Bool.true_and]

theorem toNat_quietMask (F : Fmt) : (quietMask F).toNat = 2 ^ F.qbit := by cases F <;> rfl

theorem expf_quieten (F : Fmt) (a : Pat) : expf F (defaultQuieten F a) = expf F a := by
  have hm : 2 ^ F.qbit / 2 ^ F.M = 0 := Nat.div_eq_of_lt (Nat.pow_lt_pow_right one_lt_two F.qbit_lt_M)
  rw [expf, defaultQuieten, BitVec.toNat_or, toNat_quietMask, Nat.or_div_two_pow, hm, Nat.or_zero, expf]

theorem getLsbD_quieten (F : Fmt) (a : Pat) : (defaultQuieten F a).getLsbD F.qbit = true := by
  have hm : (quietMask F).getLsbD F.qbit = true := by cases F <;> decide
  rw [defaultQuieten, BitVec.getLsbD_or, hm, Bool.or_true]

/-- The result is a quiet NaN, and but for `INPUT_DENORMAL` the flags are `INVALID` if an operand is signaling and none if not. -/
def Absorbed (F : Fmt) (signaling : Bool) (v : Flagged Pat) : Prop :=
  isNaN F v.val = true ∧ v.val.getLsbD F.qbit = true ∧ v.flags &&& ~~~Flag.inputDenormal = flagIf signaling Flag.invalid

theorem flagIf_invalid_and (p : Bool) : flagIf p Flag.invalid &&& ~~~Flag.inputDenormal = flagIf p Flag.invalid := by cases p <;> rfl

theorem absorbed_quieten {F : Fmt} {a : Pat} (h : isNaN F a = true) (signaling : Bool) :
    Absorbed F signaling { val := defaultQuieten F a, flags := flagIf signaling Flag.invalid } := by
  simp only [isNaN, Bool.and_eq_true, beq_iff_eq] at h
  exact ⟨isNaN_of_quiet ((expf_quieten F a).trans h.1) (getLsbD_quieten F a), getLsbD_quieten F a, flagIf_invalid_and signaling⟩

theorem absorbed_propNaN2 {F : Fmt} {a b : Pat} (h : (isNaN F a || isNaN F b) = true) :
    Absorbed F (isSNaN nanPolicy F a || isSNaN nanPolicy F b) (propNaN2 nanPolicy F a b) := by
  rw [propNaN2_nanPolicy]
  split_ifs with ha hb
  · exact absorbed_quieten ha _
  · exact absorbed_quieten hb _
  · simp [ha, hb] at h

theorem absorbed_propNaN3 {F : Fmt} {a b c : Pat} (h : (isNaN F a || isNaN F b || isNaN F c) = true) (infzero : Bool) :
    Absorbed F (isSNaN nanPolicy F a || isSNaN nanPolicy F b || isSNaN nanPolicy F c) (propNaN3 nanPolicy F a b c infzero) := by
  rw [propNaN3_nanPolicy]
  split_ifs with ha hb hc
  · exact absorbed_quieten ha _
  · exact absorbed_quieten hb _
  · exact absorbed_quieten hc _
  · simp [ha, hb, hc] at h

theorem absorbed_propNaN1 {F : Fmt} {a : Pat} (h : isNaN F a = true) : Absorbed F (isSNaN nanPolicy F a) (propNaN1 nanPolicy F a) := by
  have h1 := absorbed_propNaN2 (a := a) (b := a) (by rw [h, Bool.true_or])
  rwa [Bool.or_self] at h1

/-- R241: a converted NaN has all ones for its exponent and the quiet bit set, the significand that is packed fitting its field. -/
theorem nanConvert_fields (F F' : Fmt) (a : Pat) :
    expf F' (nanConvert F F' a) = F'.emaxf ∧ (nanConvert F F' a).getLsbD F'.qbit = true := by
  have hfrac := frac_lt F a
  have hf : (if F.FB ≤ F'.FB then frac F a * 2 ^ (F'.FB - F.FB) else frac F a / 2 ^ (F.FB - F'.FB)) < 2 ^ F'.FB := by
    split_ifs with h
    · rw [← Nat.add_sub_of_le h, pow_add, Nat.add_sub_cancel_left]
      exact Nat.mul_lt_mul_of_pos_right hfrac (by positivity)
    · rw [Nat.div_lt_iff_lt_mul (by positivity), ← pow_add, Nat.add_sub_of_le (by omega)]
      exact hfrac
  have hb : (if F'.explicitBit then 2 ^ 63 else 0) < 2 ^ F'.M := by cases F' <;> decide
  have hsig := Nat.or_lt_two_pow (Nat.or_lt_two_pow (hf.trans_le (Nat.pow_le_pow_right two_pos F'.FB_le_M))
    (Nat.pow_lt_pow_right one_lt_two F'.qbit_lt_M)) hb
  obtain ⟨-, hexp, hs⟩ := pack_fields F' (sign F a) _ _ F'.emaxf_lt hsig
  refine ⟨hexp, ?_⟩
  have hbit := congrArg (Nat.testBit · F'.qbit) hs
  simp only [sigf, Nat.testBit_mod_two_pow, F'.qbit_lt_M, decide_true, Bool.true_and, Nat.testBit_or, Nat.testBit_two_pow_self, Bool.or_true,
    Bool.true_or] at hbit
  exact hbit

/-! ### Flushed operands -/

theorem isNaN_squash (ctl : Word) (F : Fmt) (a : Pat) : isNaN F (squash ctl F a) = isNaN F a := by
  by_cases h : ctlFIZ ctl = true ∧ expf F a = 0 ∧ sigf F a ≠ 0
  · rw [(squash_of_flushes h).1, ((isFinite_iff F _).mp (isFinite_of_expf_eq_zero (zero_fields F _).2.1)).2,
      ((isFinite_iff F a).mp (isFinite_of_expf_eq_zero h.2.1)).2]
  · rw [(squash_of_not_flushes h).1]

theorem squash_of_isNaN {F : Fmt} {a : Pat} (h : isNaN F a = true) (ctl : Word) : squash ctl F a = a := by
  refine (squash_of_not_flushes fun ⟨_, he, _⟩ => ?_).1
  rw [((isFinite_iff F a).mp (isFinite_of_expf_eq_zero he)).2] at h
  exact Bool.false_ne_true h

theorem isSNaN_squash (pol : Config.NanPolicy) (ctl : Word) (F : Fmt) (a : Pat) : isSNaN pol F (squash ctl F a) = isSNaN pol F a := by
  rcases h : isNaN F a with _ | _
  · rw [isSNaN, isSNaN, isNaN_squash, h, Bool.false_and, Bool.false_and]
  · rw [squash_of_isNaN h]

theorem squashFlag_and (ctl : Word) (F : Fmt) (a : Pat) : squashFlag ctl F a &&& ~~~Flag.inputDenormal = 0 := by
  rw [squashFlag]
  cases ctlFIZ ctl && isSubnormal F a <;> rfl

/-- Flags that flushed operands add change nothing under the mask. -/
theorem or_and_mask {m : Flags} (hm : m &&& ~~~Flag.inputDenormal = 0) (m' : Flags) :
    (m ||| m') &&& ~~~Flag.inputDenormal = m' &&& ~~~Flag.inputDenormal := by
  rw [BitVec.and_comm, BitVec.and_or_distrib_left, BitVec.and_comm, hm, BitVec.and_comm]
  exact BitVec.zero_or

/-- The mask says what R209 says of the flags. -/
theorem flags_of_mask {m : Flags} {signaling : Bool} (h : m &&& ~~~Flag.inputDenormal = flagIf signaling Flag.invalid) :
    m.getLsbD 0 = signaling ∧ m &&& 0x5E = 0 := by
  revert m signaling
  decide

/-! ### Every operation -/

/-- The instruction completes with a quiet NaN, `INVALID` exactly when an operand is signaling, and none of the flags of R209. -/
def EndsInQuietNaN (i : Instr) (s : State) (F : Fmt) (signaling : Bool) : Prop :=
  ∃ (p : Pat) (m : Flags), Answers i s (outPat F p) 0 m ∧ isNaN F p = true ∧ p.getLsbD F.qbit = true ∧ m.getLsbD 0 = signaling ∧ m &&& 0x5E = 0

section
variable {i : Instr} {s : State} {F : Fmt}

/-- A rule that absorbs its operands, its prologue's flags `m` beside it, ends as R209 says. -/
theorem endsInQuietNaN_of_absorbed {v : Except ContractCause (Flagged Pat)} {m : Flags} (he : exec i s = completePat F (v.map (Flagged.raise m)) s)
    (hm : m &&& ~~~Flag.inputDenormal = 0) {w : Flagged Pat} (hv : v = .ok w) {signaling : Bool} (hw : Absorbed F signaling w) :
    EndsInQuietNaN i s F signaling := by
  subst hv
  obtain ⟨hnan, hquiet, hflags⟩ := hw
  exact ⟨w.val, m ||| w.flags, he, hnan, hquiet, flags_of_mask ((or_and_mask hm w.flags).trans hflags)⟩

/-- The operations of one operand, from their rule `f` after the prologue. -/
theorem endsInQuietNaN_one (f : Pat → Except ContractCause (Flagged Pat))
    (he : exec i s = completePat F ((f (squash s.ctl F (patA F s))).map (Flagged.raise (squashFlag s.ctl F (patA F s)))) s)
    (hf : ∀ a, isNaN F a = true → f a = .ok (propNaN1 nanPolicy F a)) (hn : isNaN F (patA F s) = true) :
    EndsInQuietNaN i s F (isSNaN nanPolicy F (patA F s)) := by
  rw [squash_of_isNaN hn] at he
  exact endsInQuietNaN_of_absorbed he (squashFlag_and _ _ _) (hf _ hn) (absorbed_propNaN1 hn)

/-- The operations of two operands. -/
theorem endsInQuietNaN_two (f : Pat → Pat → Except ContractCause (Flagged Pat))
    (he : exec i s = completePat F ((f (squash s.ctl F (patA F s)) (squash s.ctl F (patB F s))).map
      (Flagged.raise (squashFlag s.ctl F (patA F s) ||| squashFlag s.ctl F (patB F s)))) s)
    (hf : ∀ a b, (isNaN F a || isNaN F b) = true → f a b = .ok (propNaN2 nanPolicy F a b))
    (hn : isNaN F (patA F s) = true ∨ isNaN F (patB F s) = true) :
    EndsInQuietNaN i s F (isSNaN nanPolicy F (patA F s) || isSNaN nanPolicy F (patB F s)) := by
  have h : (isNaN F (squash s.ctl F (patA F s)) || isNaN F (squash s.ctl F (patB F s))) = true := by
    rwa [isNaN_squash, isNaN_squash, Bool.or_eq_true]
  have hw := absorbed_propNaN2 h
  rw [isSNaN_squash, isSNaN_squash] at hw
  exact endsInQuietNaN_of_absorbed he ((or_and_mask (squashFlag_and _ _ _) _).trans (squashFlag_and _ _ _)) (hf _ _ h) hw

end

theorem endsInQuietNaN_fma {F : Fmt} {s : State} (hn : isNaN F (patA F s) = true ∨ isNaN F (patB F s) = true ∨ isNaN F (patC F s) = true)
    (negC negP negR halve : Bool) :
    EndsInQuietNaN (Row.fma F negC negP negR halve) s F
      (isSNaN nanPolicy F (patA F s) || isSNaN nanPolicy F (patB F s) || isSNaN nanPolicy F (patC F s)) := by
  have h : (isNaN F (squash s.ctl F (patA F s)) || isNaN F (squash s.ctl F (patB F s)) || isNaN F (squash s.ctl F (patC F s))) = true := by
    rwa [isNaN_squash, isNaN_squash, isNaN_squash, Bool.or_eq_true, Bool.or_eq_true, or_assoc]
  have hw := absorbed_propNaN3 h
  rw [isSNaN_squash, isSNaN_squash, isSNaN_squash] at hw
  have hm := (or_and_mask (squashFlag_and s.ctl F (patA F s)) _).trans (squashFlag_and s.ctl F (patB F s))
  exact endsInQuietNaN_of_absorbed (exec_fma F negC negP negR halve s) ((or_and_mask hm _).trans (squashFlag_and s.ctl F (patC F s))) (if_pos h) (hw _)

theorem endsInQuietNaN_f2f {F F' : Fmt} {s : State} {i : Instr} (hi : Row.f2f F F' = some i) (hn : isNaN F (patA F s) = true) :
    EndsInQuietNaN i s F' (isSNaN nanPolicy F (patA F s)) := by
  have he := exec_f2f F F' i hi s
  rw [f2fOp, f2f, squash_of_isNaN hn] at he
  obtain ⟨hexp, hquiet⟩ := nanConvert_fields F F' (patA F s)
  exact endsInQuietNaN_of_absorbed he (squashFlag_and _ _ _) (if_pos hn) ⟨isNaN_of_quiet hexp hquiet, hquiet, flagIf_invalid_and _⟩

/-- A quiet comparison raises `INVALID` for a signaling operand and nothing else after its prologue (R291). -/
theorem compareSquashed_quiet_flags (pol : Config.NanPolicy) (F : Fmt) (a b : Pat) :
    (compareSquashed pol F true a b).flags = flagIf (isSNaN pol F a || isSNaN pol F b) Flag.invalid := by
  rw [compareSquashed]
  split_ifs with h
  · rw [Bool.not_true, Bool.false_or]
  · rw [Bool.or_eq_true, not_or, Bool.not_eq_true, Bool.not_eq_true] at h
    rw [isSNaN, isSNaN, h.1, h.2]
    rfl

theorem compare_quiet_invalid (pol : Config.NanPolicy) (ctl : Word) (F : Fmt) (a b : Pat) :
    (compare pol ctl F true a b).flags.getLsbD 0 = (isSNaN pol F a || isSNaN pol F b) := by
  refine (flags_of_mask ?_).1
  have hm := (or_and_mask (squashFlag_and ctl F a) _).trans (squashFlag_and ctl F b)
  rw [← flagIf_invalid_and, ← isSNaN_squash pol ctl F a, ← isSNaN_squash pol ctl F b, ← compareSquashed_quiet_flags]
  exact or_and_mask hm _

/-- Settles O41: each rule asks for a NaN operand before all else and then propagates it (`endsInQuietNaN_one`, `endsInQuietNaN_two` and the lemmas of
`FMA` and `F2F`); the quiet comparisons by `compare_quiet_invalid`. -/
theorem nanAbsorption : Obligations.NanAbsorption := by
  intro F s snan absorbs
  refine ⟨fun hn => ?_, fun hn F' i hi => endsInQuietNaN_f2f hi hn, fun hn => ?_, endsInQuietNaN_fma, ?_⟩
  · refine List.forall_mem_cons.mpr ⟨?fsqrt, List.forall_mem_cons.mpr ⟨?frint, List.forall_mem_singleton.mpr ?fscalbn⟩⟩
    case fsqrt => exact endsInQuietNaN_one (sqrtSquashed nanPolicy s.ctl F) (exec_fsqrt F s) (fun _ h => if_pos h) hn
    case frint => exact endsInQuietNaN_one (rintSquashed nanPolicy s.ctl F) (exec_frint F s) (fun _ h => if_pos h) hn
    case fscalbn => exact endsInQuietNaN_one (scalbnSquashed nanPolicy s.ctl F (sint32B s)) (exec_fscalbn F s) (fun _ h => if_pos h) hn
  · refine List.forall_mem_cons.mpr ⟨?fadd, List.forall_mem_cons.mpr ⟨?fsub, List.forall_mem_cons.mpr ⟨?fmul, List.forall_mem_cons.mpr
      ⟨?fdiv, List.forall_mem_singleton.mpr ?frem⟩⟩⟩⟩
    case fadd => exact endsInQuietNaN_two (addSubSquashed nanPolicy s.ctl F false) (exec_fadd F s) (fun _ _ h => if_pos h) hn
    case fsub => exact endsInQuietNaN_two (addSubSquashed nanPolicy s.ctl F true) (exec_fsub F s) (fun _ _ h => if_pos h) hn
    case fmul => exact endsInQuietNaN_two (mulSquashed nanPolicy s.ctl F) (exec_fmul F s) (fun _ _ h => if_pos h) hn
    case fdiv => exact endsInQuietNaN_two (divSquashed nanPolicy s.ctl F) (exec_fdiv F s) (fun _ _ h => if_pos h) hn
    case frem => exact endsInQuietNaN_two (remSquashed nanPolicy s.ctl F) (exec_frem F s) (fun _ _ h => if_pos h) hn
  · have hinvalid := compare_quiet_invalid nanPolicy s.ctl F (patA F s) (patB F s)
    refine List.forall_mem_cons.mpr ⟨?feq, List.forall_mem_cons.mpr ⟨?fle, List.forall_mem_singleton.mpr ?flt⟩⟩
    case feq => exact ⟨_, _, exec_feq F true s, hinvalid⟩
    case fle => exact ⟨_, _, exec_fle F true s, hinvalid⟩
    case flt => exact ⟨_, _, exec_flt F true s, hinvalid⟩

end Machine
end Sys2Proof
end

section
/-!
SUPPORT. The conversions of spec/44_convert.md: integers as port bits, what `I2F`, `F2I` and `F2F` end in, class by class, and the numbers that a format holds
exactly, which a conversion keeps.
-/

namespace Sys2Proof.Machine

/-! ## Integers as the bits of a port (R232) -/

theorem two_pow_width (T : IntTy) : 2 ^ T.width = 2 * 2 ^ (T.width - 1) := by cases T <;> rfl

theorem intVal_toNat {T : IntTy} (x : BitVec T.width) : intVal T x.toNat = if T.signed then x.toInt else x.toNat := by
  have hw := two_pow_width T
  rw [intVal, BitVec.toInt_eq_toNat_cond]
  cases T.signed
  · rfl
  · simp only [Bool.true_and, decide_eq_true_eq, if_true]
    split_ifs <;> omega

theorem intVal_emod (T : IntTy) (x : ℕ) : intVal T x % 2 ^ T.width = x % 2 ^ T.width := by
  rw [intVal]
  split_ifs
  · push_cast
    exact Int.sub_emod_right _ _
  · rfl

theorem intVal_range {T : IntTy} {x : ℕ} (hx : x < 2 ^ T.width) :
    imin T ≤ intVal T x ∧ intVal T x ≤ imax T ∧ (intVal T x).natAbs < 2 ^ T.width := by
  have hw := two_pow_width T
  rw [imin_eq, imax_eq]
  rcases hT : T.signed with _ | _
  · simp only [intMin, intMax, intVal, hT, Bool.false_and, Bool.false_eq_true, if_false]
    omega
  · simp only [intMin, intMax, intVal, hT, Bool.true_and, decide_eq_true_eq, if_true]
    split_ifs <;> omega

/-! ## Integer to float (R231) -/

theorem exec_i2f_setWidth (F : Fmt) (T : IntTy) (s : State) :
    exec (Row.i2f F T) s = completePat F (i2f s.ctl F T (s.request.a.setWidth T.width).toNat) s := by
  rw [exec_i2f, i2fOp, bitsA_eq]

theorem i2f_of_intVal_eq_zero {T : IntTy} {x : ℕ} (h : intVal T x = 0) (ctl : Word) (F : Fmt) : i2f ctl F T x = .ok (quietly (zero F false)) :=
  if_pos h

theorem i2f_of_intVal_ne_zero {T : IntTy} {x : ℕ} (h : intVal T x ≠ 0) (ctl : Word) (F : Fmt) :
    i2f ctl F T x = roundPackFull ctl F (decide (intVal T x < 0)) (Frac.ofInt (intVal T x)).abs :=
  if_neg h

theorem outPat_zero (F : Fmt) : outPat F (zero F false) = 0 := by cases F <;> rfl

/-- Settles O42: the two branches of the rule, the magnitude being handed to the engine as it is (`roundPackFull_input`). -/
theorem intToFloat : Obligations.IntToFloat := by
  intro F T s x v
  have hx := exec_i2f_setWidth F T s
  have hv : intVal T x.toNat = v := intVal_toNat x
  refine ⟨fun h0 => ?_, fun h0 => ?_⟩
  · rw [i2f_of_intVal_eq_zero (hv.trans h0)] at hx
    rw [← outPat_zero F]
    exact hx
  · obtain ⟨zExp, zSig, hin, hr⟩ := roundPackFull_input s.ctl F (decide (v < 0)) (r := (Frac.ofInt v).abs) Nat.one_pos
      (Int.natCast_pos.mpr (Int.natAbs_pos.mpr h0))
    rw [i2f_of_intVal_ne_zero (hv.trans_ne h0), hv, hr] at hx
    rw [Frac.toRat_abs, Frac.toRat_ofInt] at hin
    push_cast at hin
    exact ⟨zExp, zSig, hin, delivers_of_completePat_zero hx⟩

/-! ## Float to integer (R235, R236) -/

/-- A magnitude from `2 ^ 64` on saturates in `RPACKI` in every mode: asking for it beforehand changes nothing. -/
theorem rpackiWith_of_two_pow_le (mode : RMode) (T : IntTy) (sgn : Bool) {z : ℕ} (h : 2 ^ 128 ≤ z) :
    rpackiWith mode T sgn z = { val := if sgn then intMin T else intMax T, flags := Flag.invalid } := by
  have hq : 2 ^ 64 ≤ roundSig mode sgn 64 z := by rcases roundSig_near mode sgn 64 (by norm_num) z with h | h <;> omega
  have hT : intMin T < 2 ^ 64 ∧ intMax T < 2 ^ 64 := by cases T <;> decide
  rcases sgn with _ | _
  · rw [rpackiWith_pos, if_pos (by omega)]
    rfl
  · rw [rpackiWith_neg, if_pos (by omega)]
    rfl

/-- The 64.64 fixed-point magnitude of a finite operand. -/
def fixedMag (F : Fmt) (a : Pat) : ℕ := ((mag F a).scale 64).jam

theorem fixedMag_isJam (F : Fmt) (a : Pat) : IsJam (|(valQ F a : ℝ)| * 2 ^ 64) (fixedMag F a) := by
  have h := Frac.jam_isJam ((mag F a).scale 64) (Frac.den_pos_scale (mag_den_pos F a) 64)
  have habs : |((|valQ F a| * 2 ^ (64 : ℤ) : ℚ) : ℝ)| = |(valQ F a : ℝ)| * 2 ^ 64 := by
    rw [abs_of_nonneg (by positivity)]
    push_cast
    norm_num
  rwa [Frac.toRat_scale, mag_toRat, habs] at h

theorem mag_lt_iff (F : Fmt) (a : Pat) : (mag F a).lt (Frac.ofInt (2 ^ 64)) = true ↔ fixedMag F a < 2 ^ 128 := by
  rw [(fixedMag_isJam F a).lt_iff (by positivity) (by norm_num), Frac.lt_iff (mag_den_pos F a) Nat.one_pos, mag_toRat, Frac.toRat_ofInt,
    ← Rat.cast_lt (K := ℝ)]
  push_cast
  exact ⟨fun h => by linarith, fun h => by linarith⟩

theorem f2iSquashed_of_isNaN {F : Fmt} {a : Pat} (h : isNaN F a = true) (ctl : Word) (T : IntTy) (rz : Bool) :
    f2iSquashed ctl F T rz a = .ok { val := intMax T, flags := Flag.invalid } := if_pos h

/-- The mode in which `F2I` rounds: `TZ` with `.RZ`, else that of `CTL.RM` (R236). -/
def f2iMode (ctl : Word) (rz : Bool) : Except ContractCause RMode := if rz then .ok .tz else readMode ctl

theorem f2iMode_eq {ctl : Word} {rz : Bool} {mode : RMode} (h : (if rz then some .tz else modeOf (ctl.toNat % 8)) = some mode) :
    f2iMode ctl rz = .ok mode := by
  cases rz
  · exact readMode_eq ctl mode h
  · exact congrArg Except.ok (Option.some.inj h)

theorem f2iSquashed_of_mode {F : Fmt} {a : Pat} (h : isNaN F a = false) {ctl : Word} {rz : Bool} {mode : RMode} (hm : f2iMode ctl rz = .ok mode) (T : IntTy) :
    f2iSquashed ctl F T rz a =
      if isInf F a || !(mag F a).lt (Frac.ofInt (2 ^ 64)) then .ok { val := if sign F a then intMin T else intMax T, flags := Flag.invalid }
      else .ok (rpackiWith mode T (sign F a) (fixedMag F a)) := by
  unfold f2iMode at hm
  simp only [f2iSquashed, h, hm, Bool.false_eq_true, if_false, fixedMag]

theorem f2iSquashed_of_isInf {F : Fmt} {a : Pat} (h : isInf F a = true) {ctl : Word} {rz : Bool} {mode : RMode} (hm : f2iMode ctl rz = .ok mode)
    (T : IntTy) : f2iSquashed ctl F T rz a = .ok { val := if sign F a then intMin T else intMax T, flags := Flag.invalid } := by
  rw [f2iSquashed_of_mode (isNaN_of_isInf h) hm, h, Bool.true_or, if_pos rfl]

theorem f2iSquashed_of_error {F : Fmt} {a : Pat} (h : isNaN F a = false) {ctl : Word} (hm : ¬LegalMode ctl) (T : IntTy) :
    f2iSquashed ctl F T false a = .error .badRoundingMode := by
  simp only [f2iSquashed, h, readMode_error ctl hm, Bool.false_eq_true, if_false]

/-- A finite operand is rounded and saturated as `RPACKI` does it. -/
theorem f2iSquashed_of_isFinite {F : Fmt} {a : Pat} (h : isFinite F a = true) {ctl : Word} {rz : Bool} {mode : RMode} (hm : f2iMode ctl rz = .ok mode)
    (T : IntTy) : f2iSquashed ctl F T rz a = .ok (rpackiWith mode T (sign F a) (fixedMag F a)) := by
  obtain ⟨hinf, hnan⟩ := (isFinite_iff F a).mp h
  rw [f2iSquashed_of_mode hnan hm, hinf, Bool.false_or]
  rcases hlt : (mag F a).lt (Frac.ofInt (2 ^ 64)) with _ | _
  · have hz : 2 ^ 128 ≤ fixedMag F a := not_lt.mp (mt (mag_lt_iff F a).mpr (Bool.eq_false_iff.mp hlt))
    rw [rpackiWith_of_two_pow_le mode T _ hz]
    rfl
  · rfl

/-- A result of the rule that stands for the integer `v` is answered with the flags of `Squash` beside its own. -/
theorem answers_f2i {F : Fmt} {T : IntTy} {rz : Bool} {s : State} {n : ℕ} {fl : Flags} {v : ℤ}
    (hw : f2iSquashed s.ctl F T rz (squash s.ctl F (patA F s)) = .ok { val := n, flags := fl }) (hv : (n : ℤ) % 2 ^ T.width = v % 2 ^ T.width) :
    Answers (Row.f2i F T rz) s (intBits T v) 0 (squashFlag s.ctl F (patA F s) ||| fl) := by
  have h := exec_f2i F T rz s
  rw [f2iOp, f2i, hw] at h
  rw [← outBits_eq_intBits hv]
  exact h

theorem violates_f2i {F : Fmt} {T : IntTy} {rz : Bool} {s : State} {c : ContractCause}
    (hw : f2iSquashed s.ctl F T rz (squash s.ctl F (patA F s)) = .error c) : Violates (Row.f2i F T rz) s := by
  have h := exec_f2i F T rz s
  rw [f2iOp, f2i, hw] at h
  exact h

theorem intMax_emod (T : IntTy) : (intMax T : ℤ) % 2 ^ T.width = imax T % 2 ^ T.width := congrArg (· % _) (imax_eq T).symm

theorem flags_or_zero (m : Flags) : m ||| 0 = m := BitVec.or_zero

theorem bound_emod (T : IntTy) (sgn : Bool) :
    ((if sgn then intMin T else intMax T : ℕ) : ℤ) % 2 ^ T.width = (if sgn then imin T else imax T) % 2 ^ T.width := by
  cases sgn
  · exact intMax_emod T
  · exact intMin_emod T

/-- Settles O43: NaN and infinity by their branches, a finite operand as `RPACKI` of its fixed-point magnitude (`f2iSquashed_of_isFinite`), which is
rounded by `roundSig_rounds` and saturates by `rpackiWith_cases`. -/
theorem floatToInt : Obligations.FloatToInt := by
  intro F T rz s i a m
  refine ⟨fun hnan => ?_, fun hnan hrz hm => ?_, fun hnan mode hm => ⟨fun hinf => ?_, fun hinf => ?_⟩⟩
  · exact answers_f2i (f2iSquashed_of_isNaN hnan s.ctl T rz) (intMax_emod T)
  · subst hrz
    exact violates_f2i (f2iSquashed_of_error hnan hm T)
  · exact answers_f2i (f2iSquashed_of_isInf hinf (f2iMode_eq hm) T) (bound_emod T (sign F a))
  · have hw := f2iSquashed_of_isFinite ((isFinite_iff F a).mpr ⟨hinf, hnan⟩) (f2iMode_eq hm) T
    have hjam := fixedMag_isJam F a
    have hround := roundSig_rounds mode (sign F a) 64 (by norm_num) (by positivity) hjam
    have hexact := roundSig_exact_iff mode (sign F a) 64 (by norm_num) (by positivity) hjam
    rw [mul_div_cancel_right₀ _ (by positivity)] at hround hexact
    obtain ⟨hbelow, habove, hin⟩ := rpackiWith_cases mode T (sign F a) (fixedMag F a)
    refine ⟨_, hround, fun h => ?_, fun h => ?_, fun h1 h2 hx => ?_, fun h1 h2 hx => ?_⟩
    · rw [hbelow h] at hw
      exact answers_f2i hw (intMin_emod T)
    · rw [habove h] at hw
      exact answers_f2i hw (intMax_emod T)
    · obtain ⟨n, hr, hn⟩ := hin h1 h2
      rw [hr, hexact.mpr hx.symm] at hw
      have h := answers_f2i hw hn
      rwa [bne_self_eq_false, flagIf, if_neg Bool.false_ne_true, flags_or_zero] at h
    · obtain ⟨n, hr, hn⟩ := hin h1 h2
      rw [hr, bne_iff_ne.mpr (mt hexact.mp (Ne.symm hx))] at hw
      exact answers_f2i hw hn

/-! ## Float to float (R240, R241) -/

/-- The fraction of a NaN of `F`, left-aligned in the fraction of `F'` (R241). -/
def alignedFrac (F F' : Fmt) (a : Pat) : ℕ := if F.FB ≤ F'.FB then frac F a * 2 ^ (F'.FB - F.FB) else frac F a / 2 ^ (F.FB - F'.FB)

theorem alignedFrac_lt (F F' : Fmt) (a : Pat) : alignedFrac F F' a < 2 ^ F'.FB := by
  have h := frac_lt F a
  rw [alignedFrac]
  split_ifs with hF
  · rw [← Nat.add_sub_of_le hF, pow_add, Nat.add_sub_cancel_left]
    exact Nat.mul_lt_mul_of_pos_right h (by positivity)
  · rw [Nat.div_lt_iff_lt_mul (by positivity), ← pow_add, Nat.add_sub_of_le (by omega)]
    exact h

/-- A converted NaN keeps its sign; its significand is the fraction left-aligned, the quiet bit and F80's integer bit (R241). -/
theorem nanConvert_sign_sigf (F F' : Fmt) (a : Pat) :
    sign F' (nanConvert F F' a) = sign F a ∧
      sigf F' (nanConvert F F' a) = alignedFrac F F' a ||| 2 ^ F'.qbit ||| (if F'.explicitBit then 2 ^ 63 else 0) := by
  have hb : (if F'.explicitBit then 2 ^ 63 else 0) < 2 ^ F'.M := by cases F' <;> decide
  have hsig := Nat.or_lt_two_pow (Nat.or_lt_two_pow ((alignedFrac_lt F F' a).trans_le (Nat.pow_le_pow_right two_pos F'.FB_le_M))
    (Nat.pow_lt_pow_right one_lt_two F'.qbit_lt_M)) hb
  obtain ⟨hs, -, hf⟩ := pack_fields F' (sign F a) _ _ F'.emaxf_lt hsig
  exact ⟨hs, hf⟩

theorem frac_nanConvert (F F' : Fmt) (a : Pat) : frac F' (nanConvert F F' a) = alignedFrac F F' a ||| 2 ^ F'.qbit := by
  have hb : (if F'.explicitBit then 2 ^ 63 else 0) % 2 ^ F'.FB = 0 := by cases F' <;> decide
  have hf := Nat.or_lt_two_pow (alignedFrac_lt F F' a) (Nat.pow_lt_pow_right one_lt_two F'.qbit_lt_FB)
  rw [frac_eq, (nanConvert_sign_sigf F F' a).2, Nat.or_mod_two_pow, hb, Nat.or_zero, Nat.mod_eq_of_lt hf]

theorem getLsbD_63_nanConvert (F : Fmt) (a : Pat) : (nanConvert F .f80 a).getLsbD 63 = true := by
  have h : (sigf .f80 (nanConvert F .f80 a)).testBit 63 = true := by
    rw [(nanConvert_sign_sigf F .f80 a).2, if_pos (show Fmt.f80.explicitBit = true from rfl), Nat.testBit_or, Nat.testBit_two_pow_self, Bool.or_true]
  rw [sigf, Nat.testBit_mod_two_pow, Bool.and_eq_true] at h
  exact h.2

/-- The conversion delivers what its rule after `Squash` ends in. -/
theorem delivers_f2f {F F' : Fmt} {i : Instr} (hi : Row.f2f F F' = some i) (s : State) :
    Delivers i s F' (squashFlag s.ctl F (patA F s)) (f2fSquashed nanPolicy s.ctl F F' (squash s.ctl F (patA F s))) :=
  delivers_of_completePat (exec_f2f F F' i hi s)

theorem answers_f2f {F F' : Fmt} {i : Instr} {s : State} {p : Pat} {fl : Flags} (hi : Row.f2f F F' = some i)
    (h : f2fSquashed nanPolicy s.ctl F F' (squash s.ctl F (patA F s)) = .ok { val := p, flags := fl }) :
    Answers i s (outPat F' p) 0 (squashFlag s.ctl F (patA F s) ||| fl) := by
  have hd := delivers_f2f hi s
  rwa [h] at hd

section
variable {F : Fmt} {a : Pat} (pol : Config.NanPolicy) (ctl : Word) (F' : Fmt)

theorem f2fSquashed_of_isNaN (h : isNaN F a = true) :
    f2fSquashed pol ctl F F' a = .ok { val := nanConvert F F' a, flags := flagIf (isSNaN pol F a) Flag.invalid } := if_pos h

theorem f2fSquashed_of_isInf (h : isInf F a = true) : f2fSquashed pol ctl F F' a = .ok (quietly (inf F' (sign F a))) := by
  simp [f2fSquashed, isNaN_of_isInf h, h]

theorem f2fSquashed_of_valQ_eq_zero (h : isFinite F a = true) (h0 : valQ F a = 0) :
    f2fSquashed pol ctl F F' a = .ok (quietly (zero F' (sign F a))) := by
  obtain ⟨hinf, hnan⟩ := (isFinite_iff F a).mp h
  simp [f2fSquashed, hinf, hnan, (isValZero_iff F a).mpr h0]

theorem f2fSquashed_of_valQ_ne_zero (h : isFinite F a = true) (h0 : valQ F a ≠ 0) :
    f2fSquashed pol ctl F F' a = roundPackFull ctl F' (sign F a) (mag F a) := by
  obtain ⟨hinf, hnan⟩ := (isFinite_iff F a).mp h
  simp [f2fSquashed, hinf, hnan, mt (isValZero_iff F a).mp h0]

end

theorem invalid_of_isNaN {F : Fmt} {a : Pat} (h : isNaN F a = true) :
    flagIf (isSNaN nanPolicy F a) Flag.invalid = if a.getLsbD (F.FB - 1) then 0 else Flag.invalid := by
  have hs : isSNaN nanPolicy F a = !a.getLsbD (F.FB - 1) := by rw [isSNaN, h, Bool.true_and]; rfl
  rw [hs]
  cases a.getLsbD (F.FB - 1) <;> rfl

/-- The mode word with `RP = 0`, its other fields kept. -/
def clearRP (ctl : Word) : Word := ctl &&& 0xFFFFFF3F

theorem ctlRM_clearRP (ctl : Word) : ctlRM (clearRP ctl) = ctlRM ctl := by
  rw [ctlRM, clearRP, BitVec.toNat_and, show 8 = 2 ^ 3 from rfl, Nat.and_mod_two_pow]
  exact (Nat.and_two_pow_sub_one_eq_mod _ 3).trans (Nat.mod_mod _ _)

theorem ctlRP_clearRP (ctl : Word) : ctlRP (clearRP ctl) = 0 := by
  rw [ctlRP, clearRP, BitVec.toNat_and, show 64 = 2 ^ 6 from rfl, show 4 = 2 ^ 2 from rfl, Nat.and_div_two_pow, Nat.and_mod_two_pow]
  exact Nat.and_zero _

theorem readGuard_clearRP (ctl : Word) (F : Fmt) : readGuard (clearRP ctl) F = .ok F.G := by
  rw [readGuard, ctlRP_clearRP]
  cases F <;> rfl

/-- R230: full precision is what `CTL.RP = 0` asks for, and the other fields stay. -/
theorem rpackFull_eq_rpack (ctl : Word) (F : Fmt) (sgn : Bool) (zExp : ℤ) (zSig : ℕ) :
    rpackFull ctl F sgn zExp zSig = rpack (clearRP ctl) F sgn zExp zSig := by
  have hmode : readMode (clearRP ctl) = readMode ctl := by rw [readMode, ctlRM_clearRP, readMode]
  have htin : ctlTIN (clearRP ctl) = ctlTIN ctl := by simp [ctlTIN, clearRP]
  have hftz : ctlFTZ (clearRP ctl) = ctlFTZ ctl := by simp [ctlFTZ, clearRP]
  rw [rpackFull, rpack, hmode, readGuard_clearRP, htin, hftz]

/-- Settles O44: one equation of the rule after `Squash` for each class of operand, with the fields of the converted NaN (`nanConvert_sign_sigf`,
`frac_nanConvert`); rounding at full precision by `rpackFull_eq_rpack`. -/
theorem floatToFloat : Obligations.FloatToFloat := by
  refine ⟨?_, fun F ctl => rpackFull_eq_rpack ctl F⟩
  intro F F' i s hi a m
  refine ⟨fun hnan => ?_, fun hinf => ?_, fun hfin h0 => ?_, fun hfin h0 => ?_⟩
  · have h := answers_f2f hi (f2fSquashed_of_isNaN nanPolicy s.ctl F' hnan)
    rw [invalid_of_isNaN hnan] at h
    obtain ⟨hexp, -⟩ := nanConvert_fields F F' a
    obtain ⟨hs, -⟩ := nanConvert_sign_sigf F F' a
    refine ⟨nanConvert F F' a, pack_lt F' _ _ _, h, hs, hexp, ?_, frac_nanConvert F F' a⟩
    rintro rfl
    exact getLsbD_63_nanConvert F a
  · have h := answers_f2f hi (f2fSquashed_of_isInf nanPolicy s.ctl F' hinf)
    rwa [flags_or_zero] at h
  · have h := answers_f2f hi (f2fSquashed_of_valQ_eq_zero nanPolicy s.ctl F' hfin h0)
    rwa [flags_or_zero] at h
  · obtain ⟨zExp, zSig, hin, hr⟩ := roundPackFull_input s.ctl F' (sign F a) (mag_den_pos F a) (mag_num_pos h0)
    have h := delivers_f2f hi s
    rw [f2fSquashed_of_valQ_ne_zero nanPolicy s.ctl F' hfin h0, hr] at h
    rw [mag_toRat, Rat.cast_abs] at hin
    exact ⟨zExp, zSig, hin, h⟩

/-! ## Numbers that a format holds exactly -/

/-- The positive number `x` is one of the format's: a significand of the precision at an exponent of the format, below the first power of two that is too
large. -/
def Holds (F : Fmt) (x : ℚ) : Prop :=
  ∃ (k : ℕ) (e : ℤ), x = k * 2 ^ e ∧ 0 < k ∧ k < 2 ^ (F.FB + 1) ∧ F.emin - F.FB ≤ e ∧ x < 2 ^ ((F.bias : ℤ) + 1)

theorem holds_abs_valQ {F : Fmt} {a : Pat} (h : isFinite F a = true) (h0 : valQ F a ≠ 0) : Holds F |valQ F a| :=
  ⟨magSig F a, magExp F a, abs_valQ F a, magSig_pos h0, magSig_lt F a, le_magExp F a, abs_valQ_lt h⟩

/-- A format's number is at least its smallest. -/
theorem Holds.ge {F : Fmt} {x : ℚ} (h : Holds F x) : (2 : ℚ) ^ (F.emin - F.FB) ≤ x := by
  obtain ⟨k, e, rfl, hk, -, he, -⟩ := h
  have hk1 : (1 : ℚ) ≤ k := by exact_mod_cast hk
  calc (2 : ℚ) ^ (F.emin - F.FB) ≤ 1 * 2 ^ e := by rw [one_mul]; exact zpow_le_zpow_right₀ one_le_two he
    _ ≤ k * 2 ^ e := by gcongr

/-- `F'` has the precision and the exponents of `F` (R240). -/
def Widens (F F' : Fmt) : Prop := F.FB ≤ F'.FB ∧ F'.emin - F'.FB ≤ F.emin - F.FB ∧ F.bias ≤ F'.bias

theorem Holds.widen {F F' : Fmt} (hw : Widens F F') {x : ℚ} (h : Holds F x) : Holds F' x := by
  obtain ⟨k, e, hx, hk, hk2, he, hlt⟩ := h
  obtain ⟨hFB, hmin, hbias⟩ := hw
  have hbias' : (F.bias : ℤ) ≤ F'.bias := by exact_mod_cast hbias
  exact ⟨k, e, hx, hk, hk2.trans_le (Nat.pow_le_pow_right two_pos (by omega)), hmin.trans he,
    hlt.trans_le (zpow_le_zpow_right₀ one_le_two (by omega))⟩

/-- A whole number that fits the precision is one of the format's. -/
theorem holds_natCast {F : Fmt} {n : ℕ} (h0 : 0 < n) (h : n < 2 ^ F.P) : Holds F n := by
  have hF : F.FB + 1 ≤ F.bias + 1 ∧ F.emin - F.FB ≤ 0 := by cases F <;> decide
  refine ⟨n, 0, by simp, h0, h, hF.2, ?_⟩
  calc (n : ℚ) < 2 ^ F.P := by exact_mod_cast h
    _ ≤ 2 ^ (F.bias + 1) := pow_le_pow_right₀ one_le_two hF.1
    _ = 2 ^ ((F.bias : ℤ) + 1) := by norm_cast

theorem Frac.num_pos {x : Frac} (hd : 0 < x.den) (h : 0 < x.toRat) : 0 < x.num := by
  have hd' : (0 : ℚ) < x.den := by exact_mod_cast hd
  rwa [Frac.toRat, div_pos_iff_of_pos_right hd', Int.cast_pos] at h

theorem rpackFull_eq {ctl : Word} {mode : RMode} (hm : readMode ctl = .ok mode) (F : Fmt) (sgn : Bool) (zExp : ℤ) (zSig : ℕ) :
    rpackFull ctl F sgn zExp zSig = .ok (roundPackWith F F.G mode (ctlTIN ctl) (ctlFTZ ctl) sgn zExp zSig) := by
  rw [rpackFull, hm]

/-- Rounding at full precision keeps a number that the format holds, in every mode and with no flag, unless it is one that `CTL.FTZ` flushes (R179, R230). -/
theorem roundPackFull_of_holds {F : Fmt} {r : Frac} (hd : 0 < r.den) (h : Holds F r.toRat) {ctl : Word} (hm : LegalMode ctl)
    (hz : 2 ^ F.emin ≤ r.toRat ∨ ctlFTZ ctl = false) (sgn : Bool) :
    ∃ p : Pat, roundPackFull ctl F sgn r = .ok (quietly p) ∧ p.toNat < 2 ^ F.K ∧ sign F p = sgn ∧ isFinite F p = true ∧ |valQ F p| = r.toRat := by
  obtain ⟨k, e, hx, hk, hk2, he, hlt⟩ := h
  obtain ⟨mode, hmode⟩ := readMode_legal hm
  have hpos : 0 < r.toRat := by rw [hx]; positivity
  have hn : 0 < r.num := Frac.num_pos hd hpos
  obtain ⟨zExp, zSig, hin, hr⟩ := roundPackFull_input ctl F sgn hd hn
  have hxR : (r.toRat : ℝ) = k * 2 ^ e := by rw [hx]; push_cast; rfl
  have hltR : (k : ℝ) * 2 ^ e < 2 ^ ((F.bias : ℤ) + 1) := by rw [← hxR]; exact_mod_cast hlt
  have hf : ¬(zExp < 0 ∧ ctlFTZ ctl = true) := by
    rintro ⟨hneg, hftz⟩
    have hmin := hz.resolve_right (by simp [hftz])
    have hminR : (2 : ℝ) ^ F.emin ≤ r.toRat := by simpa using (Rat.cast_le (K := ℝ)).mpr hmin
    have hexp := hin.le_exp (by exact_mod_cast hpos) hminR
    unfold Fmt.emin at hexp
    omega
  rw [hxR] at hin
  obtain ⟨p, hp, hlt, hs, hfin, hval, -⟩ := (roundPackWith_exact F mode (ctlTIN ctl) (ctlFTZ ctl) sgn hk hk2 he hltR hin).2 hf
  refine ⟨p, ?_, hlt, hs, hfin, hval.trans hx.symm⟩
  rw [hr, rpackFull_eq hmode, hp]
  rfl

/-! ## Widening conversions (R240) -/

theorem valQ_eq_of_abs {F F' : Fmt} {a p : Pat} (hs : sign F' p = sign F a) (h : |valQ F' p| = |valQ F a|) : valQ F' p = valQ F a := by
  rw [valQ_eq_sign_abs F' p, valQ_eq_sign_abs F a, hs, h]

theorem isFinite_squash {F : Fmt} {a : Pat} (h : isFinite F a = true) (ctl : Word) : isFinite F (squash ctl F a) = true := by
  by_cases hf : ctlFIZ ctl = true ∧ expf F a = 0 ∧ sigf F a ≠ 0
  · rw [(squash_of_flushes hf).1]
    exact isFinite_of_expf_eq_zero (zero_fields F _).2.1
  · rwa [(squash_of_not_flushes hf).1]

/-- The conversions of `WideningExact`: they widen, and but for F80 to F128, every number of the source is normal in the destination. -/
theorem widens_of_f2f {F F' : Fmt} {i : Instr} {noFlush : Prop} (hi : Row.f2f F F' = some i)
    (h : F = .f16 ∨ (F = .f32 ∧ F' ≠ .f16) ∨ (F = .f64 ∧ (F' = .f80 ∨ F' = .f128)) ∨ (F = .f80 ∧ F' = .f128 ∧ noFlush)) :
    Widens F F' ∧ (F'.emin ≤ F.emin - F.FB ∨ noFlush) := by
  unfold Widens
  rcases h with rfl | ⟨rfl, hne⟩ | ⟨rfl, rfl | rfl⟩ | ⟨rfl, rfl, hf⟩
  · cases F' with
    | f16 => cases hi
    | _ => exact ⟨by decide, .inl (by decide)⟩
  · cases F' with
    | f16 => exact absurd rfl hne
    | f32 => cases hi
    | _ => exact ⟨by decide, .inl (by decide)⟩
  · exact ⟨by decide, .inl (by decide)⟩
  · exact ⟨by decide, .inl (by decide)⟩
  · exact ⟨by decide, .inr hf⟩

/-- Settles O45: a finite number of the source is one that the destination holds (`Holds.widen`), so the engine keeps it (`roundPackFull_of_holds`); it is
normal there, and so never flushed, but for F80 to F128. -/
theorem wideningExact : Obligations.WideningExact := by
  intro F F' i s hi hpair hm hfin a
  obtain ⟨hw, hnormal⟩ := widens_of_f2f hi hpair
  have hfa : isFinite F a = true := isFinite_squash hfin s.ctl
  by_cases h0 : valQ F a = 0
  · have h := answers_f2f hi (f2fSquashed_of_valQ_eq_zero nanPolicy s.ctl F' hfa h0)
    rw [flags_or_zero] at h
    obtain ⟨hs, he, -⟩ := zero_fields F' (sign F a)
    exact ⟨_, h, pack_lt F' _ _ _, isFinite_of_expf_eq_zero he, hs, (valQ_zero F' _).trans h0.symm⟩
  · have hholds := holds_abs_valQ hfa h0
    have hmag := mag_toRat F a
    have hz : 2 ^ F'.emin ≤ (mag F a).toRat ∨ ctlFTZ s.ctl = false :=
      hnormal.imp_left fun h => hmag ▸ (zpow_le_zpow_right₀ one_le_two h).trans hholds.ge
    obtain ⟨p, hp, hlt, hs, hfp, hv⟩ := roundPackFull_of_holds (mag_den_pos F a) (hmag ▸ hholds.widen hw) hm hz (sign F a)
    rw [← f2fSquashed_of_valQ_ne_zero nanPolicy s.ctl F' hfa h0] at hp
    have h := answers_f2f hi hp
    rw [flags_or_zero] at h
    exact ⟨p, h, hlt, hfp, hs, valQ_eq_of_abs hs (hv.trans hmag)⟩

/-! ## Integers to a format and back -/

/-- A subnormal number is no whole number: it lies between 0 and 1. -/
theorem sigf_eq_zero_of_valQ_intCast {F : Fmt} {a : Pat} {v : ℤ} (hv : valQ F a = v) (he : expf F a = 0) : sigf F a = 0 := by
  have hF : (F.FB : ℤ) + 1 + (1 - F.bias - F.FB) ≤ 0 := by cases F <;> decide
  have habs : |valQ F a| < 1 := by
    have hs : (magSig F a : ℚ) < 2 ^ (F.FB + 1) := by exact_mod_cast magSig_lt F a
    rw [abs_valQ, magExp, he]
    calc (magSig F a : ℚ) * 2 ^ (((max 0 1 : ℕ) : ℤ) - F.bias - F.FB) < 2 ^ (F.FB + 1) * 2 ^ (((max 0 1 : ℕ) : ℤ) - F.bias - F.FB) := by gcongr
      _ = 2 ^ ((F.FB : ℤ) + 1 + (1 - F.bias - F.FB)) := by rw [zpow_add₀ two_ne_zero]; norm_cast
      _ ≤ 1 := zpow_le_one_of_nonpos₀ one_le_two hF
  rw [← valQ_eq_zero_iff_of_expf_eq_zero he, hv]
  rw [hv] at habs
  exact_mod_cast Int.abs_lt_one_iff.mp (by exact_mod_cast habs)

/-- The sign bit and the magnitude of a pattern that stands for an integer make that integer. -/
theorem signed_natAbs_of_valQ_intCast {F : Fmt} {a : Pat} {v : ℤ} (hv : valQ F a = v) : (if sign F a then -(v.natAbs : ℤ) else v.natAbs) = v := by
  rcases hs : sign F a with _ | _
  · have hnonneg : ¬v < 0 := fun h => Bool.false_ne_true (hs.symm.trans (sign_of_valQ_neg (hv ▸ Int.cast_lt_zero.mpr h)))
    exact Int.natAbs_of_nonneg (not_lt.mp hnonneg)
  · have hnonpos : ¬0 < v := fun h => Bool.false_ne_true ((sign_of_valQ_pos (hv ▸ Int.cast_pos.mpr h)).symm.trans hs)
    show -(v.natAbs : ℤ) = v
    omega

/-- `I2F` of an integer that fits the precision answers the pattern of that number. -/
theorem i2f_exact {F : Fmt} {T : IntTy} {x : ℕ} (hx : (intVal T x).natAbs < 2 ^ F.P) {ctl : Word} (hm : LegalMode ctl) :
    ∃ p : Pat, i2f ctl F T x = .ok (quietly p) ∧ p.toNat < 2 ^ F.K ∧ isFinite F p = true ∧ valQ F p = intVal T x := by
  by_cases h0 : intVal T x = 0
  · exact ⟨_, i2f_of_intVal_eq_zero h0 ctl F, pack_lt F _ _ _, isFinite_of_expf_eq_zero (zero_fields F false).2.1, by rw [valQ_zero, h0, Int.cast_zero]⟩
  · have hr : (Frac.ofInt (intVal T x)).abs.toRat = ((intVal T x).natAbs : ℚ) := by
      rw [Frac.toRat_abs, Frac.toRat_ofInt, Nat.cast_natAbs, Int.cast_abs]
    have hemin : F.emin ≤ 0 := by cases F <;> decide
    have hpos : 0 < (intVal T x).natAbs := Int.natAbs_pos.mpr h0
    have hone : (1 : ℚ) ≤ (intVal T x).natAbs := by exact_mod_cast hpos
    obtain ⟨p, hp, hlt, hs, hfin, hv⟩ := roundPackFull_of_holds (r := (Frac.ofInt (intVal T x)).abs) Nat.one_pos (hr ▸ holds_natCast hpos hx) hm
      (.inl (hr ▸ (zpow_le_one_of_nonpos₀ one_le_two hemin).trans hone)) (decide (intVal T x < 0))
    refine ⟨p, (i2f_of_intVal_ne_zero h0 ctl F).trans hp, hlt, hfin, ?_⟩
    rw [valQ_eq_sign_abs, hv, hs, hr, Nat.cast_natAbs]
    rcases lt_or_ge (intVal T x) 0 with h | h
    · rw [if_pos (decide_eq_true h), abs_of_neg h]
      push_cast
      ring
    · rw [if_neg (by simpa using h), abs_of_nonneg h, one_mul]

/-- `F2I` of an operand that is an integer of the type answers that integer, in every mode. -/
theorem answers_f2i_of_intCast {F : Fmt} {T : IntTy} {rz : Bool} {s : State} (hm : LegalMode s.ctl) (hfin : isFinite F (patA F s) = true) {v : ℤ}
    (hv : valQ F (patA F s) = v) (h1 : imin T ≤ v) (h2 : v ≤ imax T) : Answers (Row.f2i F T rz) s (intBits T v) 0 0 := by
  obtain ⟨hsq, hfl⟩ := squash_of_not_flushes (ctl := s.ctl) fun ⟨_, he, hs⟩ => hs (sigf_eq_zero_of_valQ_intCast hv he)
  obtain ⟨hinf, hnan⟩ := (isFinite_iff F _).mp hfin
  obtain ⟨mode, hmode⟩ : ∃ mode, (if rz then some .tz else modeOf (s.ctl.toNat % 8)) = some mode := by
    cases rz
    · exact modeOf_isSome _ hm
    · exact ⟨.tz, rfl⟩
  obtain ⟨-, -, h⟩ := floatToInt F T rz s
  rw [hsq, hfl] at h
  obtain ⟨q, hq, -, -, hexact, -⟩ := (h hnan mode hmode).2 hinf
  have habs : |(valQ F (patA F s) : ℝ)| = v.natAbs := by rw [hv, Rat.cast_intCast, Nat.cast_natAbs, Int.cast_abs]
  rw [habs] at hq hexact
  obtain rfl := hq.eq_of_natCast
  rw [signed_natAbs_of_valQ_intCast hv] at hexact
  exact hexact h1 h2 rfl

/-- Settles O46: the format holds the integer, so `I2F` answers its pattern (`i2f_exact`), and `F2I` reads that integer back
(`answers_f2i_of_intCast`). -/
theorem integerRoundTrip : Obligations.IntegerRoundTrip := by
  intro F T rz s hP hm
  obtain ⟨hmin, hmax, habs⟩ := intVal_range (s.request.a.setWidth T.width).isLt
  obtain ⟨p, hp, hlt, hfin, hv⟩ := i2f_exact (habs.trans_le (Nat.pow_le_pow_right two_pos hP)) hm
  have hi2f := exec_i2f_setWidth F T s
  rw [hp] at hi2f
  refine ⟨outPat F p, hi2f, fun b c => ?_⟩
  have hA := patA_withOperands_outPat F p hlt b c s
  rw [← outBits_toNat, outBits_eq_intBits (intVal_emod T _).symm]
  exact answers_f2i_of_intCast (s := s.withOperands (outPat F p) b c) hm (hA.symm ▸ hfin) (by rw [hA, hv]) hmin hmax

end Sys2Proof.Machine
end

section
/-!
SUPPORT. The arithmetic operations of spec/45_arith.md: how a rule's end is answered, the equations of each rule's special-case lattice, and the exact result
that each hands to the engine.
-/

namespace Sys2Proof.Machine

/-! ## The end of a rule -/

section Ends
variable {i : Instr} {s : State} {F : Fmt} {m : Flags} {v : Except ContractCause (Flagged Pat)}

theorem Delivers.answers (hd : Delivers i s F m v) {p : Pat} {fl : Flags} (hv : v = .ok { val := p, flags := fl }) :
    Answers i s (outPat F p) 0 (m ||| fl) := by
  subst hv
  exact hd

/-- A result with no flag of its own is answered with the flags of the prologue. -/
theorem Delivers.answers_quietly (hd : Delivers i s F m v) {p : Pat} (hv : v = .ok (quietly p)) : Answers i s (outPat F p) 0 m := by
  have h := hd.answers hv
  rwa [flags_or_zero] at h

/-- A positive fraction handed to the engine is rounded as the real number it stands for. -/
theorem Delivers.roundPacks (hd : Delivers i s F m v) {sgn : Bool} {r : Frac} (hv : v = roundPack s.ctl F sgn r) (hden : 0 < r.den)
    (hpos : 0 < r.toRat) : RoundPacks i s F m sgn r.toRat := by
  obtain ⟨zExp, zSig, hin, hr⟩ := roundPack_input s.ctl F sgn hden (Frac.num_pos hden hpos)
  rw [hv, hr] at hd
  exact ⟨zExp, zSig, hin, hd⟩

/-- The same where the rule changes the rounded result by `f`. -/
theorem Delivers.roundPacks_map (hd : Delivers i s F m v) {sgn : Bool} {r : Frac} {f : Flagged Pat → Flagged Pat}
    (hv : v = (roundPack s.ctl F sgn r).map f) (hden : 0 < r.den) (hpos : 0 < r.toRat) :
    ∃ zExp zSig, EngineInput F (r.toRat : ℝ) zExp zSig ∧ Delivers i s F m ((rpack s.ctl F sgn zExp zSig).map f) := by
  obtain ⟨zExp, zSig, hin, hr⟩ := roundPack_input s.ctl F sgn hden (Frac.num_pos hden hpos)
  rw [hv, hr] at hd
  exact ⟨zExp, zSig, hin, hd⟩

theorem Delivers.roundPacksFull (hd : Delivers i s F m v) {sgn : Bool} {r : Frac} (hv : v = roundPackFull s.ctl F sgn r) (hden : 0 < r.den)
    (hpos : 0 < r.toRat) : RoundPacksFull i s F m sgn r.toRat := by
  obtain ⟨zExp, zSig, hin, hr⟩ := roundPackFull_input s.ctl F sgn hden (Frac.num_pos hden hpos)
  rw [hv, hr] at hd
  exact ⟨zExp, zSig, hin, hd⟩

end Ends

/-! ## Finite operands and exact sums -/

theorem isInf_of_isFinite {F : Fmt} {a : Pat} (h : isFinite F a = true) : isInf F a = false := ((isFinite_iff F a).mp h).1

theorem isNaN_of_isFinite {F : Fmt} {a : Pat} (h : isFinite F a = true) : isNaN F a = false := ((isFinite_iff F a).mp h).2

theorem isFinite_of_isInf {F : Fmt} {a : Pat} (h : isInf F a = true) : isFinite F a = false := by
  by_contra hc
  exact Bool.noConfusion (h.symm.trans (isInf_of_isFinite (by simpa using hc)))

/-- The class that R251 calls a zero value. -/
theorem isFiniteZero_eq (F : Fmt) (a : Pat) : isFiniteZero F a = (isFinite F a && decide (valQ F a = 0)) := by
  have hfin : isFinite F a = (!isInf F a && !isNaN F a) := by
    rw [Bool.eq_iff_iff, isFinite_iff]
    simp
  have hzero : isValZero F a = decide (valQ F a = 0) := by rw [Bool.eq_iff_iff, isValZero_iff, decide_eq_true_iff]
  rw [isFiniteZero, hfin, hzero]

theorem isFiniteZero_of_isInf {F : Fmt} {a : Pat} (h : isInf F a = true) : isFiniteZero F a = false := by simp [isFiniteZero, h]

theorem isNeg_eq {x : Frac} (h : 0 < x.den) : x.isNeg = decide (x.toRat < 0) := by rw [Bool.eq_iff_iff, Frac.isNeg_iff h, decide_eq_true_iff]

/-- The factor of a sign that is the XOR of two. -/
theorem sign_factor_xor (p q : Bool) : (if p ^^ q then (-1 : ℚ) else 1) = (if p then -1 else 1) * (if q then -1 else 1) := by
  cases p <;> cases q <;> simp

theorem cast_sign_factor (p : Bool) : ((if p then (-1 : ℚ) else 1 : ℚ) : ℝ) = if p then -1 else 1 := by cases p <;> simp

/-- A term of an exact sum, its sign flipped where `flip` says so. -/
theorem signedMag_flip_toRat (F : Fmt) (flip : Bool) (a : Pat) :
    (signedMag F (sign F a ^^ flip) a).toRat = (if flip then -1 else 1) * valQ F a := by
  rw [signedMag_toRat, sign_factor_xor, mul_comm (if sign F a then (-1 : ℚ) else 1), mul_assoc, ← valQ_eq_sign_abs]

/-! ## `FADD` and `FSUB` (R255, R256) -/

/-- The exact sum of two finite operands, the second one's sign flipped by `sub`. -/
def exactSum (F : Fmt) (sub : Bool) (a b : Pat) : Frac := (signedMag F (sign F a) a).add (signedMag F (sign F b ^^ sub) b)

theorem exactSum_den_pos (F : Fmt) (sub : Bool) (a b : Pat) : 0 < (exactSum F sub a b).den :=
  Frac.den_pos_add (signedMag_den_pos F _ a) (signedMag_den_pos F _ b)

theorem exactSum_toRat (F : Fmt) (sub : Bool) (a b : Pat) : (exactSum F sub a b).toRat = valQ F a + if sub then -valQ F b else valQ F b := by
  have ha := signedMag_flip_toRat F false a
  rw [Bool.xor_false] at ha
  rw [exactSum, Frac.toRat_add (signedMag_den_pos F _ a) (signedMag_den_pos F _ b), ha, signedMag_flip_toRat]
  cases sub <;> simp

section AddSub
variable (pol : Config.NanPolicy) (ctl : Word) {F : Fmt} (sub : Bool) {a b : Pat}

theorem addSubSquashed_of_isNaN (h : isNaN F a = true ∨ isNaN F b = true) : addSubSquashed pol ctl F sub a b = .ok (propNaN2 pol F a b) :=
  if_pos ((Bool.or_eq_true _ _).mpr h)

theorem addSubSquashed_of_isInf_isInf (ha : isInf F a = true) (hb : isInf F b = true) :
    addSubSquashed pol ctl F sub a b = if sign F a = (sign F b ^^ sub) then .ok (quietly (inf F (sign F a))) else .ok (invalidNaN pol F) := by
  by_cases h : sign F a = (sign F b ^^ sub) <;> simp [addSubSquashed, isNaN_of_isInf ha, isNaN_of_isInf hb, ha, hb, h]

theorem addSubSquashed_of_isInf_isFinite (ha : isInf F a = true) (hb : isFinite F b = true) :
    addSubSquashed pol ctl F sub a b = .ok (quietly (inf F (sign F a))) := by
  simp [addSubSquashed, isNaN_of_isInf ha, isNaN_of_isFinite hb, ha, isInf_of_isFinite hb]

theorem addSubSquashed_of_isFinite_isInf (ha : isFinite F a = true) (hb : isInf F b = true) :
    addSubSquashed pol ctl F sub a b = .ok (quietly (inf F (sign F b ^^ sub))) := by
  simp [addSubSquashed, isNaN_of_isFinite ha, isNaN_of_isInf hb, isInf_of_isFinite ha, hb]

theorem addSubSquashed_of_isFinite (ha : isFinite F a = true) (hb : isFinite F b = true) :
    addSubSquashed pol ctl F sub a b =
      if (exactSum F sub a b).isZero then .ok (quietly (zero F (zeroSumSign ctl (sign F a) (sign F b ^^ sub))))
      else roundPack ctl F (exactSum F sub a b).isNeg (exactSum F sub a b).abs := by
  simp only [addSubSquashed, isNaN_of_isFinite ha, isNaN_of_isFinite hb, isInf_of_isFinite ha, isInf_of_isFinite hb, Bool.or_self, Bool.false_eq_true,
    if_false]
  rfl

/-- R252: an exact zero sum. -/
theorem addSubSquashed_of_sum_eq_zero (ha : isFinite F a = true) (hb : isFinite F b = true) (h : (exactSum F sub a b).toRat = 0) :
    addSubSquashed pol ctl F sub a b = .ok (quietly (zero F (zeroSumSign ctl (sign F a) (sign F b ^^ sub)))) := by
  rw [addSubSquashed_of_isFinite pol ctl sub ha hb, if_pos ((Frac.isZero_iff (exactSum_den_pos F sub a b)).mpr h)]

theorem addSubSquashed_of_sum_ne_zero (ha : isFinite F a = true) (hb : isFinite F b = true) (h : (exactSum F sub a b).toRat ≠ 0) :
    addSubSquashed pol ctl F sub a b = roundPack ctl F (decide ((exactSum F sub a b).toRat < 0)) (exactSum F sub a b).abs := by
  have hden := exactSum_den_pos F sub a b
  rw [addSubSquashed_of_isFinite pol ctl sub ha hb, if_neg (mt (Frac.isZero_iff hden).mp h), isNeg_eq hden]

end AddSub

theorem delivers_addSub (F : Fmt) (sub : Bool) (s : State) :
    Delivers (if sub then Row.fsub F else Row.fadd F) s F (squashFlag s.ctl F (patA F s) ||| squashFlag s.ctl F (patB F s))
      (addSubSquashed nanPolicy s.ctl F sub (squash s.ctl F (patA F s)) (squash s.ctl F (patB F s))) := by
  cases sub
  · exact delivers_of_completePat (exec_fadd F s)
  · exact delivers_of_completePat (exec_fsub F s)

/-- Settles O47: one equation of the lattice for each class of operands; the sum is exact (`exactSum_toRat`), and its sign and magnitude are what the engine
rounds. -/
theorem floatAddSub : Obligations.FloatAddSub := by
  intro F sub s i a b m sb r zeroSign
  have hd : Delivers i s F m (addSubSquashed nanPolicy s.ctl F sub a b) := delivers_addSub F sub s
  have hr : ((exactSum F sub a b).toRat : ℝ) = r := by
    rw [exactSum_toRat, Rat.cast_add, apply_ite Rat.cast, Rat.cast_neg]
  have hround : isFinite F a = true → isFinite F b = true → r ≠ 0 → RoundPacks i s F m (decide ((exactSum F sub a b).toRat < 0)) |r| := by
    intro ha hb h
    have h0 : (exactSum F sub a b).toRat ≠ 0 := by exact_mod_cast hr.trans_ne h
    have hp := hd.roundPacks (addSubSquashed_of_sum_ne_zero nanPolicy s.ctl sub ha hb h0) (exactSum_den_pos F sub a b)
      (by rw [Frac.toRat_abs]; exact abs_pos.mpr h0)
    rwa [Frac.toRat_abs, Rat.cast_abs, hr] at hp
  refine ⟨fun h => ?_, fun ha hb h => ?_, fun ha hb h => ?_, fun ha hb => ?_, fun ha hb => ?_, fun ha hb h => ?_, fun ha hb h => ?_, fun ha hb h => ?_⟩
  · rwa [addSubSquashed_of_isNaN nanPolicy s.ctl sub h] at hd
  · exact hd.answers ((addSubSquashed_of_isInf_isInf nanPolicy s.ctl sub ha hb).trans (if_neg h))
  · exact h ▸ hd.answers_quietly ((addSubSquashed_of_isInf_isInf nanPolicy s.ctl sub ha hb).trans (if_pos h))
  · exact hd.answers_quietly (addSubSquashed_of_isInf_isFinite nanPolicy s.ctl sub ha hb)
  · exact hd.answers_quietly (addSubSquashed_of_isFinite_isInf nanPolicy s.ctl sub ha hb)
  · have h0 : (exactSum F sub a b).toRat = 0 := by exact_mod_cast hr.trans h
    have hz : zeroSumSign s.ctl (sign F a) sb = zeroSign := ite_congr rfl id fun _ => rfl
    exact hz ▸ hd.answers_quietly (addSubSquashed_of_sum_eq_zero nanPolicy s.ctl sub ha hb h0)
  · have hneg : (exactSum F sub a b).toRat < 0 := by exact_mod_cast hr.trans_lt h
    have hp := hround ha hb h.ne
    rwa [decide_eq_true hneg, abs_of_neg h] at hp
  · have hpos : ¬(exactSum F sub a b).toRat < 0 := by exact_mod_cast (hr ▸ h).not_gt
    have hp := hround ha hb h.ne'
    rwa [decide_eq_false hpos, abs_of_pos h] at hp

/-! ## `FMUL` (R257) -/

/-- Infinity times zero, in either order. -/
def infTimesZero (F : Fmt) (a b : Pat) : Bool := (isInf F a && isFiniteZero F b) || (isInf F b && isFiniteZero F a)

theorem infTimesZero_iff {F : Fmt} {a b : Pat} :
    infTimesZero F a b = true ↔
      (isInf F a = true ∧ isFinite F b = true ∧ valQ F b = 0) ∨ (isInf F b = true ∧ isFinite F a = true ∧ valQ F a = 0) := by
  simp [infTimesZero, isFiniteZero_eq]

/-- Infinity times zero is a product with an infinity and without a NaN. -/
theorem operands_of_infTimesZero {F : Fmt} {a b : Pat} (h : infTimesZero F a b = true) :
    (isNaN F a = false ∧ isNaN F b = false) ∧ (isInf F a = true ∨ isInf F b = true) := by
  rcases infTimesZero_iff.mp h with ⟨ha, hb, -⟩ | ⟨hb, ha, -⟩
  · exact ⟨⟨isNaN_of_isInf ha, isNaN_of_isFinite hb⟩, .inl ha⟩
  · exact ⟨⟨isNaN_of_isFinite ha, isNaN_of_isInf hb⟩, .inr hb⟩

theorem mag_mul_den_pos (F : Fmt) (a b : Pat) : 0 < ((mag F a).mul (mag F b)).den := Frac.den_pos_mul (mag_den_pos F a) (mag_den_pos F b)

theorem mag_mul_toRat (F : Fmt) (a b : Pat) : ((mag F a).mul (mag F b)).toRat = |valQ F a| * |valQ F b| := by
  rw [Frac.toRat_mul, mag_toRat, mag_toRat]

section Mul
variable (pol : Config.NanPolicy) (ctl : Word) {F : Fmt} {a b : Pat}

theorem mulSquashed_of_isNaN (h : isNaN F a = true ∨ isNaN F b = true) : mulSquashed pol ctl F a b = .ok (propNaN2 pol F a b) :=
  if_pos ((Bool.or_eq_true _ _).mpr h)

theorem mulSquashed_of_isInf (hnan : isNaN F a = false ∧ isNaN F b = false) (hinf : isInf F a = true ∨ isInf F b = true) :
    mulSquashed pol ctl F a b =
      if infTimesZero F a b then .ok (invalidNaN pol F) else .ok (quietly (inf F (sign F a ^^ sign F b))) := by
  simp only [mulSquashed, hnan, (Bool.or_eq_true _ _).mpr hinf, Bool.or_self, Bool.false_eq_true, if_false, if_true]
  rfl

theorem mulSquashed_of_isFinite (ha : isFinite F a = true) (hb : isFinite F b = true) :
    mulSquashed pol ctl F a b =
      if ((mag F a).mul (mag F b)).isZero then .ok (quietly (zero F (sign F a ^^ sign F b)))
      else roundPack ctl F (sign F a ^^ sign F b) ((mag F a).mul (mag F b)) := by
  simp only [mulSquashed, isNaN_of_isFinite ha, isNaN_of_isFinite hb, isInf_of_isFinite ha, isInf_of_isFinite hb, Bool.or_self, Bool.false_eq_true,
    if_false]

end Mul

theorem delivers_fmul (F : Fmt) (s : State) :
    Delivers (Row.fmul F) s F (squashFlag s.ctl F (patA F s) ||| squashFlag s.ctl F (patB F s))
      (mulSquashed nanPolicy s.ctl F (squash s.ctl F (patA F s)) (squash s.ctl F (patB F s))) :=
  delivers_of_completePat (exec_fmul F s)

/-- Settles O48: the lattice's equations, infinity times zero as `infTimesZero_iff` says it, and the exact product of the magnitudes (`mag_mul_toRat`). -/
theorem floatMultiply : Obligations.FloatMultiply := by
  intro F s i a b m sgn r
  have hd : Delivers i s F m (mulSquashed nanPolicy s.ctl F a b) := delivers_fmul F s
  have hr : (((mag F a).mul (mag F b)).toRat : ℝ) = r := by
    rw [mag_mul_toRat, Rat.cast_mul, Rat.cast_abs, Rat.cast_abs]
  have hzero : ((mag F a).mul (mag F b)).isZero = true ↔ r = 0 := by
    rw [Frac.isZero_iff (mag_mul_den_pos F a b), ← hr, Rat.cast_eq_zero]
  refine ⟨fun h => ?_, fun h => ?_, fun h => ?_, fun ha hb h => ?_, fun ha hb h => ?_⟩
  · rwa [mulSquashed_of_isNaN nanPolicy s.ctl h] at hd
  · have hz := infTimesZero_iff.mpr h
    obtain ⟨hnan, hinf⟩ := operands_of_infTimesZero hz
    exact hd.answers ((mulSquashed_of_isInf nanPolicy s.ctl hnan hinf).trans (if_pos hz))
  · obtain ⟨hnan, hinf, hz⟩ :
        (isNaN F a = false ∧ isNaN F b = false) ∧ (isInf F a = true ∨ isInf F b = true) ∧ ¬infTimesZero F a b = true := by
      rw [infTimesZero_iff]
      rcases h with ⟨ha, hb⟩ | ⟨ha, hb, h0⟩ | ⟨hb, ha, h0⟩
      · exact ⟨⟨isNaN_of_isInf ha, isNaN_of_isInf hb⟩, .inl ha, by simp [isFinite_of_isInf ha, isFinite_of_isInf hb]⟩
      · exact ⟨⟨isNaN_of_isInf ha, isNaN_of_isFinite hb⟩, .inl ha, by simp [isFinite_of_isInf ha, h0]⟩
      · exact ⟨⟨isNaN_of_isFinite ha, isNaN_of_isInf hb⟩, .inr hb, by simp [isFinite_of_isInf hb, h0]⟩
    exact hd.answers_quietly ((mulSquashed_of_isInf nanPolicy s.ctl hnan hinf).trans (if_neg hz))
  · exact hd.answers_quietly ((mulSquashed_of_isFinite nanPolicy s.ctl ha hb).trans (if_pos (hzero.mpr h)))
  · have hpos : 0 < ((mag F a).mul (mag F b)).toRat := by
      rw [mag_mul_toRat]
      exact lt_of_le_of_ne (by positivity) (by rw [← mag_mul_toRat]; exact_mod_cast (hr.trans_ne h).symm)
    exact hr ▸ hd.roundPacks ((mulSquashed_of_isFinite nanPolicy s.ctl ha hb).trans (if_neg (mt hzero.mp h))) (mag_mul_den_pos F a b) hpos

/-! ## `FDIV` (R258) -/

section Div
variable (pol : Config.NanPolicy) (ctl : Word) {F : Fmt} {a b : Pat}

theorem divSquashed_of_isNaN (h : isNaN F a = true ∨ isNaN F b = true) : divSquashed pol ctl F a b = .ok (propNaN2 pol F a b) :=
  if_pos ((Bool.or_eq_true _ _).mpr h)

theorem divSquashed_of_isInf_isInf (ha : isInf F a = true) (hb : isInf F b = true) : divSquashed pol ctl F a b = .ok (invalidNaN pol F) := by
  simp [divSquashed, isNaN_of_isInf ha, isNaN_of_isInf hb, ha, hb]

theorem divSquashed_of_isInf_isFinite (ha : isInf F a = true) (hb : isFinite F b = true) :
    divSquashed pol ctl F a b = .ok (quietly (inf F (sign F a ^^ sign F b))) := by
  simp [divSquashed, isNaN_of_isInf ha, isNaN_of_isFinite hb, ha, isInf_of_isFinite hb]

theorem divSquashed_of_isFinite_isInf (ha : isFinite F a = true) (hb : isInf F b = true) :
    divSquashed pol ctl F a b = .ok (quietly (zero F (sign F a ^^ sign F b))) := by
  simp [divSquashed, isNaN_of_isFinite ha, isNaN_of_isInf hb, isInf_of_isFinite ha, hb]

/-- Two finite numbers: the four cases of a zero dividend and a zero divisor. -/
theorem divSquashed_of_isFinite (ha : isFinite F a = true) (hb : isFinite F b = true) :
    divSquashed pol ctl F a b =
      if valQ F b = 0 then
        if valQ F a = 0 then .ok (invalidNaN pol F) else .ok { val := inf F (sign F a ^^ sign F b), flags := Flag.divByZero }
      else if valQ F a = 0 then .ok (quietly (zero F (sign F a ^^ sign F b)))
      else roundPack ctl F (sign F a ^^ sign F b) ((mag F a).div (mag F b)) := by
  simp [divSquashed, isNaN_of_isFinite ha, isNaN_of_isFinite hb, isInf_of_isFinite ha, isInf_of_isFinite hb, isValZero_iff]

end Div

theorem delivers_fdiv (F : Fmt) (s : State) :
    Delivers (Row.fdiv F) s F (squashFlag s.ctl F (patA F s) ||| squashFlag s.ctl F (patB F s))
      (divSquashed nanPolicy s.ctl F (squash s.ctl F (patA F s)) (squash s.ctl F (patB F s))) :=
  delivers_of_completePat (exec_fdiv F s)

/-- Settles O49: the lattice's equations, and the exact quotient of the magnitudes (`Frac.toRat_div`). -/
theorem floatDivide : Obligations.FloatDivide := by
  intro F s i a b m sgn
  have hd : Delivers i s F m (divSquashed nanPolicy s.ctl F a b) := delivers_fdiv F s
  refine ⟨fun h => ?_, fun h => ?_, fun ha hb => ?_, fun ha hb => ?_, fun ha hb h1 h2 => ?_, fun ha hb h1 h2 => ?_, fun ha hb h1 h2 => ?_⟩
  · rwa [divSquashed_of_isNaN nanPolicy s.ctl h] at hd
  · rcases h with ⟨ha, hb⟩ | ⟨ha, hb, h1, h2⟩
    · exact hd.answers (divSquashed_of_isInf_isInf nanPolicy s.ctl ha hb)
    · exact hd.answers (by rw [divSquashed_of_isFinite nanPolicy s.ctl ha hb, if_pos h2, if_pos h1]; rfl)
  · exact hd.answers_quietly (divSquashed_of_isInf_isFinite nanPolicy s.ctl ha hb)
  · exact hd.answers_quietly (divSquashed_of_isFinite_isInf nanPolicy s.ctl ha hb)
  · exact hd.answers (by rw [divSquashed_of_isFinite nanPolicy s.ctl ha hb, if_pos h2, if_neg h1])
  · exact hd.answers_quietly (by rw [divSquashed_of_isFinite nanPolicy s.ctl ha hb, if_neg h2, if_pos h1])
  · have hq : ((mag F a).div (mag F b)).toRat = |valQ F a| / |valQ F b| := by
      rw [Frac.toRat_div _ _ (mag_den_pos F b) (mag_num_pos h2).ne', mag_toRat, mag_toRat]
    have hpos : 0 < ((mag F a).div (mag F b)).toRat := hq ▸ div_pos (abs_pos.mpr h1) (abs_pos.mpr h2)
    have hp := hd.roundPacks (by rw [divSquashed_of_isFinite nanPolicy s.ctl ha hb, if_neg h2, if_neg h1])
      (Frac.den_pos_div (mag_den_pos F a) (mag_num_pos h2).ne') hpos
    rwa [hq, Rat.cast_div, Rat.cast_abs, Rat.cast_abs] at hp

/-! ## `FREM` (R259) -/

/-- The remainder of a zero dividend is zero: the integer nearest to zero is zero. -/
theorem remainder_of_valQ_eq_zero {F : Fmt} {a b : Pat} (ha : valQ F a = 0) (hb : valQ F b ≠ 0) : (remainder F a b).toRat = 0 := by
  obtain ⟨-, n, hrem, hn, -⟩ := remainder_spec F a b hb
  rw [ha, zero_div, zero_sub, abs_neg] at hn
  have hlt : |(n : ℚ)| < 1 := hn.trans_lt (by norm_num)
  have h0 : n = 0 := Int.abs_lt_one_iff.mp (by exact_mod_cast hlt)
  rw [hrem, ha, h0, Int.cast_zero, zero_mul, sub_zero]

section Rem
variable (pol : Config.NanPolicy) (ctl : Word) {F : Fmt} {a b : Pat}

theorem remSquashed_of_isNaN (h : isNaN F a = true ∨ isNaN F b = true) : remSquashed pol ctl F a b = .ok (propNaN2 pol F a b) :=
  if_pos ((Bool.or_eq_true _ _).mpr h)

theorem remSquashed_of_isInf (ha : isInf F a = true) (hb : isNaN F b = false) : remSquashed pol ctl F a b = .ok (invalidNaN pol F) := by
  simp [remSquashed, isNaN_of_isInf ha, hb, ha]

theorem remSquashed_of_isFinite_isInf (ha : isFinite F a = true) (hb : isInf F b = true) : remSquashed pol ctl F a b = .ok (quietly a) := by
  simp [remSquashed, isNaN_of_isFinite ha, isNaN_of_isInf hb, isInf_of_isFinite ha, isFiniteZero_of_isInf hb, hb]

theorem remSquashed_of_divisor_eq_zero (ha : isFinite F a = true) (hb : isFinite F b = true) (h : valQ F b = 0) :
    remSquashed pol ctl F a b = .ok (invalidNaN pol F) := by
  simp [remSquashed, isNaN_of_isFinite ha, isNaN_of_isFinite hb, isInf_of_isFinite ha, (isFiniteZero_iff hb).mpr h]

/-- Two finite numbers, the divisor not zero: a zero remainder, that of a zero dividend included, or any other, rounded. -/
theorem remSquashed_of_isFinite (ha : isFinite F a = true) (hb : isFinite F b = true) (h : valQ F b ≠ 0) :
    remSquashed pol ctl F a b =
      if (remainder F a b).toRat = 0 then .ok (quietly (zero F (sign F a)))
      else roundPackFull ctl F (decide ((remainder F a b).toRat < 0)) (remainder F a b).abs := by
  have hden := (remainder_spec F a b h).1
  by_cases h0 : valQ F a = 0
  · simp [remSquashed, isNaN_of_isFinite ha, isNaN_of_isFinite hb, isInf_of_isFinite ha, isInf_of_isFinite hb, isFiniteZero_iff hb, isValZero_iff, h, h0,
      remainder_of_valQ_eq_zero h0 h]
  · simp [remSquashed, isNaN_of_isFinite ha, isNaN_of_isFinite hb, isInf_of_isFinite ha, isInf_of_isFinite hb, isFiniteZero_iff hb, isValZero_iff, h, h0,
      Frac.isZero_iff hden, isNeg_eq hden]

end Rem

theorem delivers_frem (F : Fmt) (s : State) :
    Delivers (Row.frem F) s F (squashFlag s.ctl F (patA F s) ||| squashFlag s.ctl F (patB F s))
      (remSquashed nanPolicy s.ctl F (squash s.ctl F (patA F s)) (squash s.ctl F (patB F s))) :=
  delivers_of_completePat (exec_frem F s)

/-- A quotient within one half of an integer leaves a remainder within one half of the divisor. -/
theorem abs_sub_mul_le_half {x y n : ℚ} (hy : y ≠ 0) (h : |x / y - n| ≤ 1 / 2) : |x - n * y| ≤ |y| / 2 := by
  have hfac : x - n * y = (x / y - n) * y := by rw [sub_mul, div_mul_cancel₀ _ hy]
  calc |x - n * y| = |x / y - n| * |y| := by rw [hfac, abs_mul]
    _ ≤ 1 / 2 * |y| := mul_le_mul_of_nonneg_right h (abs_nonneg y)
    _ = |y| / 2 := one_div_mul_eq_div 2 |y|

/-- Settles O50: `remainder_spec` gives the nearest integer, and what the rule does with the remainder is `remSquashed_of_isFinite`. -/
theorem floatRemainder : Obligations.FloatRemainder := by
  intro F s i a b m x y
  have hd : Delivers i s F m (remSquashed nanPolicy s.ctl F a b) := delivers_frem F s
  refine ⟨fun h => ?_, fun h => ?_, fun ha hb => ?_, fun ha hb hy => ?_⟩
  · rwa [remSquashed_of_isNaN nanPolicy s.ctl h] at hd
  · rcases h with ⟨ha, hb⟩ | ⟨ha, hb, hy⟩
    · exact hd.answers (remSquashed_of_isInf nanPolicy s.ctl ha hb)
    · exact hd.answers (remSquashed_of_divisor_eq_zero nanPolicy s.ctl ha hb hy)
  · exact hd.answers_quietly (remSquashed_of_isFinite_isInf nanPolicy s.ctl ha hb)
  · obtain ⟨hden, n, hrem, hnear, heven⟩ := remainder_spec F a b hy
    have hrule := remSquashed_of_isFinite nanPolicy s.ctl ha hb hy
    refine ⟨n, hnear, heven, abs_sub_mul_le_half hy hnear, fun h0 => ?_, fun h0 => ?_⟩
    · exact hd.answers_quietly (hrule.trans (if_pos (hrem.trans h0)))
    · have hne := hrem.trans_ne h0
      have hp := hd.roundPacksFull (hrule.trans (if_neg hne)) hden (by rw [Frac.toRat_abs]; exact abs_pos.mpr hne)
      rwa [Frac.toRat_abs, Rat.cast_abs, hrem] at hp

/-! ## `FMA` (R260) -/

/-- The sum that `FMA` rounds, said of the signed values: product and addend with the modifiers of their signs, halved by `.H`. -/
theorem fmaSum_eq (F : Fmt) (mods : FmaMods) (a b c : Pat) :
    (fmaSum F mods ((sign F a ^^ sign F b) ^^ mods.negP) (sign F c ^^ mods.negC) a b c).toRat =
      ((if mods.negP then -1 else 1) * (valQ F a * valQ F b) + (if mods.negC then -1 else 1) * valQ F c) * (if mods.halve then 1 / 2 else 1) := by
  have ha := valQ_eq_sign_abs F a
  have hb := valQ_eq_sign_abs F b
  have hc := signedMag_flip_toRat F mods.negC c
  rw [signedMag_toRat] at hc
  have hp : (if (sign F a ^^ sign F b) ^^ mods.negP then (-1 : ℚ) else 1) * (|valQ F a| * |valQ F b|) =
      (if mods.negP then -1 else 1) * (((if sign F a then -1 else 1) * |valQ F a|) * ((if sign F b then -1 else 1) * |valQ F b|)) := by
    rw [sign_factor_xor, sign_factor_xor]
    ring
  rw [fmaSum_toRat, hc, hp, ← ha, ← hb]

theorem fmaSum_den_pos (F : Fmt) (mods : FmaMods) (ps cs : Bool) (a b c : Pat) : 0 < (fmaSum F mods ps cs a b c).den := by
  have hp : 0 < (if ps then ((mag F a).mul (mag F b)).neg else (mag F a).mul (mag F b)).den := by cases ps <;> exact mag_mul_den_pos F a b
  have hsum := Frac.den_pos_add hp (signedMag_den_pos F cs c)
  rw [fmaSum]
  cases mods.halve
  · exact hsum
  · exact Frac.den_pos_scale hsum (-1)

section Fma
variable (pol : Config.NanPolicy) (ctl : Word) {F : Fmt} (mods : FmaMods) {a b c : Pat}

theorem fmaSquashed_of_isNaN (h : (isNaN F a || isNaN F b || isNaN F c) = true) :
    fmaSquashed pol ctl F mods a b c = .ok (propNaN3 pol F a b c (infTimesZero F a b)) := if_pos h

theorem fmaSquashed_of_infTimesZero (hnan : (isNaN F a || isNaN F b || isNaN F c) = false) (h : infTimesZero F a b = true) :
    fmaSquashed pol ctl F mods a b c = .ok (invalidNaN pol F) := by
  rw [infTimesZero] at h
  simp only [fmaSquashed, hnan, h, Bool.false_eq_true, if_false, if_true]

/-- An infinite product and an addend that is no NaN. -/
theorem fmaSquashed_of_isInf_product (hnan : (isNaN F a || isNaN F b || isNaN F c) = false) (hz : infTimesZero F a b = false)
    (h : isInf F a = true ∨ isInf F b = true) :
    fmaSquashed pol ctl F mods a b c =
      if isInf F c && (sign F c ^^ mods.negC) != ((sign F a ^^ sign F b) ^^ mods.negP) then .ok (invalidNaN pol F)
      else .ok (quietly (inf F (((sign F a ^^ sign F b) ^^ mods.negP) ^^ mods.negR))) := by
  rw [infTimesZero] at hz
  simp only [fmaSquashed, hnan, hz, (Bool.or_eq_true _ _).mpr h, Bool.false_eq_true, if_false, if_true]

theorem fmaSquashed_of_isInf_addend (ha : isFinite F a = true) (hb : isFinite F b = true) (hc : isInf F c = true) :
    fmaSquashed pol ctl F mods a b c = .ok (quietly (inf F ((sign F c ^^ mods.negC) ^^ mods.negR))) := by
  simp [fmaSquashed, isNaN_of_isFinite ha, isNaN_of_isFinite hb, isNaN_of_isInf hc, isInf_of_isFinite ha, isInf_of_isFinite hb, hc]

theorem fmaSquashed_of_isFinite {ps cs : Bool} (hps : ((sign F a ^^ sign F b) ^^ mods.negP) = ps) (hcs : (sign F c ^^ mods.negC) = cs)
    (ha : isFinite F a = true) (hb : isFinite F b = true) (hc : isFinite F c = true) :
    fmaSquashed pol ctl F mods a b c =
      if (fmaSum F mods ps cs a b c).toRat = 0 then .ok (quietly (zero F (zeroSumSign ctl ps cs ^^ mods.negR)))
      else (roundPack ctl F (decide ((fmaSum F mods ps cs a b c).toRat < 0)) (fmaSum F mods ps cs a b c).abs).map (negateIf mods.negR F) := by
  have hden := fmaSum_den_pos F mods ps cs a b c
  simp only [fmaSquashed, isNaN_of_isFinite ha, isNaN_of_isFinite hb, isNaN_of_isFinite hc, isInf_of_isFinite ha, isInf_of_isFinite hb,
    isInf_of_isFinite hc, hps, hcs, Bool.or_self, Bool.false_and, Bool.false_eq_true, if_false, Frac.isZero_iff hden, isNeg_eq hden]

end Fma

/-- The default policy propagates alike whether the product is infinity times zero or not (R207). -/
theorem propNaN3_infzero (F : Fmt) (a b c : Pat) (infzero : Bool) : propNaN3 nanPolicy F a b c infzero = propNaN3 nanPolicy F a b c false := by
  rw [propNaN3_nanPolicy, propNaN3_nanPolicy]

/-- `.NR` inverts the sign bit of a result. -/
theorem negateIf_eq_map (p : Bool) (F : Fmt) :
    negateIf p F = Flagged.map fun q => if p then q ^^^ BitVec.ofNat 128 (2 ^ (F.K - 1)) else q := by
  cases p <;> rfl

/-- The sign of a number that is not zero, as a bit. -/
theorem ne_zero_and_lt_zero_iff {r : ℝ} {neg : Bool} (h : if neg then r < 0 else 0 < r) : r ≠ 0 ∧ (r < 0 ↔ neg = true) := by
  cases neg
  · exact ⟨ne_of_gt h, iff_of_false (lt_asymm h) Bool.false_ne_true⟩
  · exact ⟨ne_of_lt h, iff_of_true h rfl⟩

theorem delivers_fma (F : Fmt) (negC negP negR halve : Bool) (s : State) :
    Delivers (Row.fma F negC negP negR halve) s F
      (squashFlag s.ctl F (patA F s) ||| squashFlag s.ctl F (patB F s) ||| squashFlag s.ctl F (patC F s))
      (fmaSquashed nanPolicy s.ctl F ⟨negC, negP, negR, halve⟩ (squash s.ctl F (patA F s)) (squash s.ctl F (patB F s)) (squash s.ctl F (patC F s))) :=
  delivers_of_completePat (exec_fma F negC negP negR halve s)

/-- Settles O51: the lattice's equations, and the exact sum with its modifiers (`fmaSum_eq`), whose magnitude the engine rounds once before `.NR` inverts
the sign bit (`negateIf_eq_map`). -/
theorem fusedMultiplyAdd : Obligations.FusedMultiplyAdd := by
  intro F negC negP negR halve s i a b c m infzero ps cs sum r zeroSign anyNaN
  have hd : Delivers i s F m (fmaSquashed nanPolicy s.ctl F ⟨negC, negP, negR, halve⟩ a b c) := delivers_fma F negC negP negR halve s
  have hiz : infTimesZero F a b = true ↔ infzero := infTimesZero_iff
  obtain ⟨x, hx⟩ : ∃ x, x = fmaSum F ⟨negC, negP, negR, halve⟩ ps cs a b c := ⟨_, rfl⟩
  have hfin := fmaSquashed_of_isFinite nanPolicy s.ctl ⟨negC, negP, negR, halve⟩ (a := a) (b := b) (c := c) (F := F) (ps := ps) (cs := cs) rfl rfl
  rw [← hx] at hfin
  have hden : 0 < x.den := hx ▸ fmaSum_den_pos F _ ps cs a b c
  have hr : (x.toRat : ℝ) = r := by
    have hsum : (((if negP then -1 else 1) * (valQ F a * valQ F b) + (if negC then -1 else 1) * valQ F c : ℚ) : ℝ) = sum := by
      rw [Rat.cast_add, Rat.cast_mul, Rat.cast_mul, Rat.cast_mul, cast_sign_factor, cast_sign_factor]
    have hxr := hx ▸ fmaSum_eq F ⟨negC, negP, negR, halve⟩ a b c
    rw [hxr, Rat.cast_mul, hsum]
    cases halve <;> simp [r, div_eq_mul_inv]
  refine ⟨fun h => ?_, fun hn h => ?_, fun hn hz hi hc h => ?_, fun hn hz hi h => ?_, fun ha hb hc => ?_, fun ha hb hc h => ?_,
    fun neg ha hb hc h => ?_⟩
  · rwa [fmaSquashed_of_isNaN nanPolicy s.ctl _ h, propNaN3_infzero] at hd
  · exact hd.answers (fmaSquashed_of_infTimesZero nanPolicy s.ctl _ hn (hiz.mpr h))
  · have hz' := Bool.eq_false_iff.mpr (mt hiz.mp hz)
    exact hd.answers ((fmaSquashed_of_isInf_product nanPolicy s.ctl _ hn hz' hi).trans (if_pos (by rw [hc, Bool.true_and, bne_iff_ne]; exact h)))
  · have hz' := Bool.eq_false_iff.mpr (mt hiz.mp hz)
    refine hd.answers_quietly ((fmaSquashed_of_isInf_product nanPolicy s.ctl _ hn hz' hi).trans (if_neg ?_))
    rw [Bool.and_eq_true, bne_iff_ne]
    rintro ⟨hc, hs⟩
    rcases h with h | h
    · exact Bool.noConfusion (hc.symm.trans h)
    · exact hs h
  · exact hd.answers_quietly (fmaSquashed_of_isInf_addend nanPolicy s.ctl _ ha hb hc)
  · have h0 : r = 0 := by simp only [r, h, zero_div, ite_self]
    have hq : x.toRat = 0 := by exact_mod_cast hr.trans h0
    exact hd.answers_quietly ((hfin ha hb hc).trans (if_pos hq))
  · obtain ⟨hne, hlt⟩ := ne_zero_and_lt_zero_iff h
    have hq : x.toRat ≠ 0 := by exact_mod_cast hr.trans_ne hne
    have hneg : decide (x.toRat < 0) = neg := by rw [Bool.eq_iff_iff, decide_eq_true_iff, ← hlt, ← hr, Rat.cast_lt_zero]
    have hp := hd.roundPacks_map ((hfin ha hb hc).trans (if_neg hq)) hden (by rw [Frac.toRat_abs]; exact abs_pos.mpr hq)
    rwa [Frac.toRat_abs, Rat.cast_abs, hr, hneg, negateIf_eq_map] at hp

/-! ## `FSQRT` (R261) -/

section Sqrt
variable (pol : Config.NanPolicy) (ctl : Word) {F : Fmt} {a : Pat}

theorem sqrtSquashed_of_isNaN (h : isNaN F a = true) : sqrtSquashed pol ctl F a = .ok (propNaN2 pol F a a) := if_pos h

theorem sqrtSquashed_of_valQ_eq_zero (h : isFinite F a = true) (h0 : valQ F a = 0) : sqrtSquashed pol ctl F a = .ok (quietly (zero F (sign F a))) := by
  simp [sqrtSquashed, isNaN_of_isFinite h, (isFiniteZero_iff h).mpr h0]

/-- Below zero, `-Infinity` included. -/
theorem sqrtSquashed_of_sign (hnan : isNaN F a = false) (hz : isFiniteZero F a = false) (hs : sign F a = true) :
    sqrtSquashed pol ctl F a = .ok (invalidNaN pol F) := by
  simp [sqrtSquashed, hnan, hz, hs]

theorem sqrtSquashed_of_isInf (h : isInf F a = true) (hs : sign F a = false) : sqrtSquashed pol ctl F a = .ok (quietly a) := by
  simp [sqrtSquashed, isNaN_of_isInf h, isFiniteZero_of_isInf h, hs, h]

theorem sqrtSquashed_of_valQ_pos (h : isFinite F a = true) (hpos : 0 < valQ F a) : sqrtSquashed pol ctl F a = roundPack ctl F false (sqrtFrac F a) := by
  simp [sqrtSquashed, isNaN_of_isFinite h, isFiniteZero_iff h, hpos.ne', sign_of_valQ_pos hpos, isInf_of_isFinite h]

end Sqrt

theorem delivers_fsqrt (F : Fmt) (s : State) :
    Delivers (Row.fsqrt F) s F (squashFlag s.ctl F (patA F s)) (sqrtSquashed nanPolicy s.ctl F (squash s.ctl F (patA F s))) :=
  delivers_of_completePat (exec_fsqrt F s)

/-- Settles O52: the rule's equations, and for a positive number the engine input of the real square root (`sqrtFrac_input`). -/
theorem squareRoot : Obligations.SquareRoot := by
  intro F s i a m
  have hd : Delivers i s F m (sqrtSquashed nanPolicy s.ctl F a) := delivers_fsqrt F s
  refine ⟨fun h => ?_, fun h h0 => ?_, fun h => ?_, fun h hs => ?_, fun h hpos => ?_⟩
  · rwa [sqrtSquashed_of_isNaN nanPolicy s.ctl h] at hd
  · exact hd.answers_quietly (sqrtSquashed_of_valQ_eq_zero nanPolicy s.ctl h h0)
  · rcases h with ⟨h, hs⟩ | ⟨h, hneg⟩
    · exact hd.answers (sqrtSquashed_of_sign nanPolicy s.ctl (isNaN_of_isInf h) (isFiniteZero_of_isInf h) hs)
    · exact hd.answers (sqrtSquashed_of_sign nanPolicy s.ctl (isNaN_of_isFinite h) (Bool.eq_false_iff.mpr (mt (isFiniteZero_iff h).mp hneg.ne))
        (sign_of_valQ_neg hneg))
  · exact hd.answers_quietly (sqrtSquashed_of_isInf nanPolicy s.ctl h hs)
  · rw [sqrtSquashed_of_valQ_pos nanPolicy s.ctl h hpos] at hd
    exact ⟨_, _, (sqrtFrac_input F a hpos).2, hd⟩

/-! ## `FRINT` (R262) -/

/-- A fraction's magnitude, as its integer part and the rest. -/
theorem Frac.abs_toRat_real (x : Frac) (hx : 0 < x.den) : |(x.toRat : ℝ)| = x.whole + (x.rest : ℝ) / x.den := by
  have h := congrArg (Rat.cast : ℚ → ℝ) (Frac.abs_toRat_eq x hx)
  push_cast at h
  exact h

/-- The integer that `FRINT` gives a number that is no integer is that number rounded in the mode (R182). -/
theorem rintMag_rounds (mode : RMode) (sgn : Bool) {x : Frac} (hx : 0 < x.den) (hrest : x.rest ≠ 0) :
    RoundsTo mode sgn |(x.toRat : ℝ)| (rintMag mode sgn x) := by
  have hx' : (0 : ℝ) < x.den := by exact_mod_cast hx
  have habs := x.abs_toRat_real hx
  have hlow : 0 < (x.rest : ℝ) / x.den := div_pos (by exact_mod_cast Nat.pos_of_ne_zero hrest) hx'
  have hhigh : (x.rest : ℝ) / x.den < 1 := (div_lt_one hx').mpr (by exact_mod_cast x.rest_lt hx)
  have htrunc : (x.whole : ℝ) ≤ |(x.toRat : ℝ)| ∧ |(x.toRat : ℝ)| < x.whole + 1 := by rw [habs]; constructor <;> linarith
  have haway : |(x.toRat : ℝ)| ≤ ((x.whole + 1 : ℕ) : ℝ) ∧ ((x.whole + 1 : ℕ) : ℝ) < |(x.toRat : ℝ)| + 1 := by
    rw [habs]; push_cast; constructor <;> linarith
  cases mode with
  | ne => exact Frac.nearestEven_rounds x hx sgn
  | na =>
    have hhalf : x.den ≤ 2 * x.rest ↔ 1 / 2 ≤ (x.rest : ℝ) / x.den := by
      rw [div_le_div_iff₀ two_pos hx', one_mul, mul_comm]
      exact_mod_cast Iff.rfl
    simp only [RoundsTo, rintMag, habs, hhalf]
    split_ifs with h
    · push_cast
      rw [abs_of_nonpos (by linarith)]
      exact ⟨by linarith, fun _ => by linarith⟩
    · rw [abs_of_nonneg (by linarith)]
      exact ⟨by linarith, fun he => absurd he (by linarith)⟩
  | tz => exact htrunc
  | tp => cases sgn <;> [exact haway; exact htrunc]
  | tn => cases sgn <;> [exact htrunc; exact haway]
  | odd =>
    simp only [RoundsTo, rintMag, or_one_eq]
    refine ⟨?_, fun _ => by split_ifs <;> omega⟩
    rw [abs_lt]
    split_ifs
    · constructor <;> linarith [haway.1, haway.2]
    · constructor <;> linarith [htrunc.1, htrunc.2]

theorem rintMag_le (mode : RMode) (sgn : Bool) (x : Frac) : rintMag mode sgn x ≤ x.whole + 1 := by
  cases mode with
  | ne => simp only [rintMag, Frac.nearestEven]; split_ifs <;> omega
  | na => simp only [rintMag]; split_ifs <;> omega
  | tz => simp only [rintMag]; omega
  | tp => simp only [rintMag]; split_ifs <;> omega
  | tn => simp only [rintMag]; split_ifs <;> omega
  | odd => simp only [rintMag, or_one_eq]; split_ifs <;> omega

theorem abs_valQ_eq_whole (F : Fmt) (a : Pat) : |valQ F a| = (mag F a).whole + ((mag F a).rest : ℚ) / (mag F a).den := by
  rw [← Frac.abs_toRat_eq (mag F a) (mag_den_pos F a), mag_toRat, abs_abs]

/-- An operand is an integer exactly when its magnitude has nothing beyond its integer part. -/
theorem mag_rest_eq_zero_iff (F : Fmt) (a : Pat) : (mag F a).rest = 0 ↔ ∃ n : ℤ, valQ F a = n := by
  constructor
  · intro h
    have habs := abs_valQ_eq_whole F a
    rw [h, Nat.cast_zero, zero_div, add_zero] at habs
    refine ⟨(if sign F a then -1 else 1) * ((mag F a).whole : ℤ), ?_⟩
    rw [valQ_eq_sign_abs, habs]
    cases sign F a <;> simp
  · rintro ⟨n, hn⟩
    have hnat : |((|valQ F a| : ℚ) : ℝ)| = n.natAbs := by
      rw [hn, Rat.cast_abs, abs_abs, Rat.cast_intCast, Nat.cast_natAbs, Int.cast_abs]
    rw [Frac.rest_eq_zero_iff _ (mag_den_pos F a), mag_toRat, hnat, Nat.floor_natCast]

/-- A number that is no integer has fraction bits of its precision below the point. -/
theorem abs_valQ_lt_of_not_integral {F : Fmt} {a : Pat} (h : ¬∃ n : ℤ, valQ F a = n) : |valQ F a| < 2 ^ F.FB := by
  have hexp : magExp F a < 0 := by
    by_contra hc
    obtain ⟨k, hk⟩ := Int.eq_ofNat_of_zero_le (not_lt.mp hc)
    refine h ⟨(if sign F a then -1 else 1) * (magSig F a * 2 ^ k), ?_⟩
    rw [valQ_eq_mag, hk, zpow_natCast]
    cases sign F a <;> simp
  have hsig : (magSig F a : ℚ) < 2 ^ (F.FB + 1) := by exact_mod_cast magSig_lt F a
  calc |valQ F a| = magSig F a * 2 ^ magExp F a := abs_valQ F a
    _ ≤ magSig F a * 2 ^ (-1 : ℤ) := by gcongr <;> [norm_num; omega]
    _ < 2 ^ (F.FB + 1) * 2 ^ (-1 : ℤ) := by gcongr
    _ = 2 ^ F.FB := by rw [pow_succ, zpow_neg_one, mul_assoc, mul_inv_cancel₀ two_ne_zero, mul_one]

theorem rintMag_lt {F : Fmt} {a : Pat} (h : ¬∃ n : ℤ, valQ F a = n) (mode : RMode) (sgn : Bool) : rintMag mode sgn (mag F a) < 2 ^ (F.FB + 1) := by
  have hwhole : (mag F a).whole < 2 ^ F.FB := by
    have hlt := abs_valQ_lt_of_not_integral h
    have hrest : 0 ≤ ((mag F a).rest : ℚ) / (mag F a).den := by positivity
    rw [abs_valQ_eq_whole] at hlt
    exact_mod_cast (le_add_of_nonneg_right hrest).trans_lt hlt
  have hle := rintMag_le mode sgn (mag F a)
  have hpow : 2 ^ (F.FB + 1) = 2 * 2 ^ F.FB := by rw [pow_succ, mul_comm]
  omega

/-- The pattern that `FRINT` answers for the whole number `q` of a sign. -/
def rintPat (F : Fmt) (sgn : Bool) (q : ℕ) : Pat := if q = 0 then zero F sgn else packExact F sgn (Frac.ofInt q)

theorem rintPat_value (F : Fmt) (sgn : Bool) {q : ℕ} (h : q < 2 ^ (F.FB + 1)) :
    (rintPat F sgn q).toNat < 2 ^ F.K ∧ isFinite F (rintPat F sgn q) = true ∧ sign F (rintPat F sgn q) = sgn ∧ |valQ F (rintPat F sgn q)| = q ∧
      (F.explicitBit = true → (2 ^ 63 ≤ sigf F (rintPat F sgn q) ↔ 1 ≤ expf F (rintPat F sgn q))) := by
  by_cases h0 : q = 0
  · obtain ⟨hs, he, hm⟩ := zero_fields F sgn
    rw [rintPat, if_pos h0]
    refine ⟨pack_lt F _ _ _, isFinite_of_expf_eq_zero he, hs, by rw [valQ_zero, h0, abs_zero, Nat.cast_zero], fun _ => ?_⟩
    rw [he, hm]
    norm_num
  · obtain ⟨hlt, hs, hfin, hv, hcanon⟩ := packExact_value F sgn q (Nat.pos_of_ne_zero h0) h
    rw [rintPat, if_neg h0]
    exact ⟨hlt, hfin, hs, hv, hcanon⟩

section Rint
variable (pol : Config.NanPolicy) (ctl : Word) {F : Fmt} {a : Pat}

theorem rintSquashed_of_isNaN (h : isNaN F a = true) : rintSquashed pol ctl F a = .ok (propNaN2 pol F a a) := if_pos h

theorem rintSquashed_of_isInf (h : isInf F a = true) : rintSquashed pol ctl F a = .ok (quietly a) := by
  simp [rintSquashed, isNaN_of_isInf h, h]

theorem rintSquashed_of_integral (h : isFinite F a = true) (hi : ∃ n : ℤ, valQ F a = n) : rintSquashed pol ctl F a = .ok (quietly a) := by
  simp [rintSquashed, isNaN_of_isFinite h, (mag_rest_eq_zero_iff F a).mpr hi]

/-- A number that is no integer consults the mode (R25). -/
theorem rintSquashed_of_not_integral (h : isFinite F a = true) (hi : ¬∃ n : ℤ, valQ F a = n) :
    rintSquashed pol ctl F a =
      (readMode ctl).map fun mode => { val := rintPat F (sign F a) (rintMag mode (sign F a) (mag F a)), flags := Flag.inexact } := by
  have hz : isZero F a = false := by
    by_contra hc
    simp only [isZero, Bool.not_eq_false, Bool.and_eq_true, beq_iff_eq] at hc
    exact hi ⟨0, by rw [(valQ_eq_zero_iff_of_expf_eq_zero hc.1).mpr hc.2, Int.cast_zero]⟩
  rw [rintSquashed, isNaN_of_isFinite h, isInf_of_isFinite h, hz, Bool.or_self, if_neg Bool.false_ne_true, if_neg Bool.false_ne_true,
    if_neg (mt (mag_rest_eq_zero_iff F a).mp hi)]
  cases readMode ctl <;> rfl

end Rint

theorem delivers_frint (F : Fmt) (s : State) :
    Delivers (Row.frint F) s F (squashFlag s.ctl F (patA F s)) (rintSquashed nanPolicy s.ctl F (squash s.ctl F (patA F s))) :=
  delivers_of_completePat (exec_frint F s)

/-- Settles O53: an integer is told by `mag_rest_eq_zero_iff`; any other number is rounded by `rintMag_rounds`, to a whole number that fits the precision
(`rintMag_lt`) and so is packed exactly (`rintPat_value`). -/
theorem roundToIntegral : Obligations.RoundToIntegral := by
  intro F s i a m integral
  have hd : Delivers i s F m (rintSquashed nanPolicy s.ctl F a) := delivers_frint F s
  refine ⟨fun h => ?_, fun h => ?_, fun h hi hm => ?_, fun h hi mode hm => ?_⟩
  · rwa [rintSquashed_of_isNaN nanPolicy s.ctl h] at hd
  · rcases h with h | ⟨h, hi⟩
    · exact hd.answers_quietly (rintSquashed_of_isInf nanPolicy s.ctl h)
    · exact hd.answers_quietly (rintSquashed_of_integral nanPolicy s.ctl h hi)
  · rw [rintSquashed_of_not_integral nanPolicy s.ctl h hi, readMode_error s.ctl hm] at hd
    exact hd
  · rw [rintSquashed_of_not_integral nanPolicy s.ctl h hi, readMode_eq s.ctl mode hm] at hd
    have hrounds := rintMag_rounds mode (sign F a) (mag_den_pos F a) (mt (mag_rest_eq_zero_iff F a).mp hi)
    rw [mag_toRat, Rat.cast_abs, abs_abs] at hrounds
    obtain ⟨hlt, hfin, hs, hv, hcanon⟩ := rintPat_value F (sign F a) (rintMag_lt hi mode (sign F a))
    exact ⟨_, _, hd, hlt, hfin, hs, hrounds, hv, fun hF => hcanon (hF ▸ rfl)⟩

/-! ## `FSCALBN` (R263) -/

section Scalbn
variable (pol : Config.NanPolicy) (ctl : Word) {F : Fmt} (n : ℤ) {a : Pat}

theorem scalbnSquashed_of_isNaN (h : isNaN F a = true) : scalbnSquashed pol ctl F n a = .ok (propNaN2 pol F a a) := if_pos h

theorem scalbnSquashed_of_isInf (h : isInf F a = true) : scalbnSquashed pol ctl F n a = .ok (quietly a) := by
  simp [scalbnSquashed, isNaN_of_isInf h, h]

theorem scalbnSquashed_of_isFinite (h : isFinite F a = true) :
    scalbnSquashed pol ctl F n a =
      if valQ F a = 0 then .ok (quietly (zero F (sign F a))) else roundPack ctl F (sign F a) ((mag F a).scale (max (-65536) (min 65536 n))) := by
  simp [scalbnSquashed, isNaN_of_isFinite h, isInf_of_isFinite h, isValZero_iff]

end Scalbn

theorem delivers_fscalbn (F : Fmt) (s : State) :
    Delivers (Row.fscalbn F) s F (squashFlag s.ctl F (patA F s)) (scalbnSquashed nanPolicy s.ctl F (sint32B s) (squash s.ctl F (patA F s))) :=
  delivers_of_completePat (exec_fscalbn F s)

/-- Settles O54: the rule's equations, and the scaling as a multiplication (`Frac.toRat_scale`). -/
theorem scaleByPowerOfTwo : Obligations.ScaleByPowerOfTwo := by
  intro F s i a m n
  have hd : Delivers i s F m (scalbnSquashed nanPolicy s.ctl F (sint32B s) a) := delivers_fscalbn F s
  refine ⟨fun h => ?_, fun h => ?_, fun h h0 => ?_, fun h h0 => ?_⟩
  · rwa [scalbnSquashed_of_isNaN nanPolicy s.ctl _ h] at hd
  · exact hd.answers_quietly (scalbnSquashed_of_isInf nanPolicy s.ctl _ h)
  · exact hd.answers_quietly ((scalbnSquashed_of_isFinite nanPolicy s.ctl _ h).trans (if_pos h0))
  · have hr : ((mag F a).scale n).toRat = |valQ F a| * 2 ^ n := by rw [Frac.toRat_scale, mag_toRat]
    have hpos : 0 < ((mag F a).scale n).toRat := hr ▸ mul_pos (abs_pos.mpr h0) (zpow_pos two_pos n)
    have hp : RoundPacks i s F m (sign F a) ((mag F a).scale n).toRat :=
      hd.roundPacks ((scalbnSquashed_of_isFinite nanPolicy s.ctl _ h).trans (if_neg h0)) (Frac.den_pos_scale (mag_den_pos F a) n) hpos
    rwa [hr, Rat.cast_mul, Rat.cast_abs, Rat.cast_zpow, Rat.cast_ofNat] at hp

end Sys2Proof.Machine
end
section
/-!
SUPPORT. Comparisons and minimum and maximum (spec/46_compare_minmax.md): the verdict of a comparison by the order of the extended reals, the five ways in
which it is answered, and which operand each clause of the minimum and maximum returns.
-/

namespace Sys2Proof.Machine

/-! ## The orders of R290 and R297 -/

theorem extMagLt_asymm {F : Fmt} {a b : Pat} (h : extMagLt F a b = true) : extMagLt F b a = false := by
  obtain ⟨ha, hab⟩ := (extMagLt_iff F a b).mp h
  refine Bool.eq_false_iff.mpr fun h' => ?_
  obtain ⟨hb, hba⟩ := (extMagLt_iff F b a).mp h'
  exact lt_asymm (hab.resolve_left (by simp [hb])) (hba.resolve_left (by simp [ha]))

/-- Of one sign, the values are in the order of the magnitudes or, both negative, in its reverse. -/
theorem valQ_lt_iff_of_sign_eq {F : Fmt} {a b : Pat} (hs : sign F a = sign F b) :
    valQ F a < valQ F b ↔ if sign F a then |valQ F b| < |valQ F a| else |valQ F a| < |valQ F b| := by
  rw [valQ_eq_sign_abs F a, valQ_eq_sign_abs F b, ← hs]
  cases sign F a <;> simp

/-- The same of the extended reals. -/
theorem extLt_of_sign_eq {F : Fmt} {a b : Pat} (hs : sign F a = sign F b) :
    extLt F a b = if sign F a then extMagLt F b a else extMagLt F a b := by
  have hv := valQ_lt_iff_of_sign_eq hs
  rw [Bool.eq_iff_iff, apply_ite (· = true), extLt_iff, extMagLt_iff, extMagLt_iff]
  unfold ExtLt ExtMagLt
  rw [hv, ← hs]
  cases sign F a <;> cases isInf F a <;> cases isInf F b <;> simp

/-! ## The verdict (R290, R291) -/

section Compare
variable {F : Fmt} {a b : Pat}

theorem relation_of_lt (h : ExtLt F a b) : relation F a b = .less := if_pos ((extLt_iff F a b).mpr h)

theorem relation_of_gt (h : ExtLt F b a) : relation F a b = .greater := by
  rw [relation_swap F b a, relation_of_lt h]
  rfl

theorem relation_of_not_lt (h : ¬ExtLt F a b) (h' : ¬ExtLt F b a) : relation F a b = .equal :=
  (if_neg (mt (extLt_iff F a b).mp h)).trans (if_neg (mt (extLt_iff F b a).mp h'))

variable (pol : Config.NanPolicy) (q : Bool)

theorem compareSquashed_of_isNaN (h : isNaN F a = true ∨ isNaN F b = true) :
    compareSquashed pol F q a b = { val := .unordered, flags := flagIf (!q || isSNaN pol F a || isSNaN pol F b) Flag.invalid } :=
  if_pos ((Bool.or_eq_true _ _).mpr h)

theorem compareSquashed_of_not_isNaN (ha : isNaN F a = false) (hb : isNaN F b = false) :
    compareSquashed pol F q a b = { val := relation F a b, flags := 0 } := by simp [compareSquashed, ha, hb]

end Compare

/-! ## The answers (R292 to R296) -/

/-- The five comparisons read one verdict and raise the same flags. -/
theorem answers_of_compareSquashed {F : Fmt} {q : Bool} {s : State} {v : Verdict} {f : Flags}
    (h : compareSquashed nanPolicy F q (squash s.ctl F (patA F s)) (squash s.ctl F (patB F s)) = { val := v, flags := f }) :
    let m := squashFlag s.ctl F (patA F s) ||| squashFlag s.ctl F (patB F s)
    Answers (Row.feq F q) s (outBool (v == .equal)) 0 (m ||| f) ∧ Answers (Row.fle F q) s (outBool (v == .less || v == .equal)) 0 (m ||| f) ∧
    Answers (Row.flt F q) s (outBool (v == .less)) 0 (m ||| f) ∧ Answers (Row.funord F q) s (outBool (v == .unordered)) 0 (m ||| f) ∧
    Answers (Row.fcmp F q) s (outBits 2 v.code) 0 (m ||| f) := by
  have hpred (p : Verdict → Bool) :
      predicateOp nanPolicy p F q s =
        .next (answer (outBool (p v)) 0 (squashFlag s.ctl F (patA F s) ||| squashFlag s.ctl F (patB F s) ||| f) s) := by
    rw [predicateOp, compare, h]
    rfl
  have hcode : fcmpOp nanPolicy F q s =
      .next (answer (outBits 2 v.code) 0 (squashFlag s.ctl F (patA F s) ||| squashFlag s.ctl F (patB F s) ||| f) s) := by
    rw [fcmpOp, compare, h]
    rfl
  exact ⟨(exec_feq F q s).trans (hpred _), (exec_fle F q s).trans (hpred _), (exec_flt F q s).trans (hpred _), (exec_funord F q s).trans (hpred _),
    (exec_fcmp F q s).trans hcode⟩

theorem flagIf_eq_ite_not (p : Bool) (m : Flags) : flagIf p m = if !p then 0 else m := by cases p <;> rfl

/-- Settles O55: the verdict by the cases of R291 (`compareSquashed_of_isNaN`, `relation_of_lt`, `relation_of_gt`, `relation_of_not_lt`), which the five
operations answer each in its own way (`answers_of_compareSquashed`). -/
theorem comparisons : Obligations.Comparisons := by
  intro F q s a b m snan all
  refine ⟨fun h => ?_, fun ha hb => ?_⟩
  · have hc := compareSquashed_of_isNaN nanPolicy q h
    rw [flagIf_eq_ite_not, Bool.not_or, Bool.not_or, Bool.not_not] at hc
    exact answers_of_compareSquashed hc
  · have hc := compareSquashed_of_not_isNaN nanPolicy q ha hb
    refine ⟨fun h => ?_, fun h => ?_, fun h h' => ?_⟩
    · rw [relation_of_lt h] at hc
      exact answers_of_compareSquashed hc
    · rw [relation_of_gt h] at hc
      exact answers_of_compareSquashed hc
    · rw [relation_of_not_lt h h'] at hc
      exact answers_of_compareSquashed hc

/-! ## Minimum and maximum (R297) -/

section MinMax
variable {F : Fmt} {a b : Pat} {isMin isMag : Bool}

/-- An operand below the other, in whichever order `lt` tells, is the minimum, and the other the maximum. -/
theorem ite_eq_of_lt {lt : Bool} (h : lt = true) : (if lt = isMin then a else b) = if isMin then a else b := by
  subst h
  cases isMin <;> rfl

theorem ite_eq_of_not_lt {lt : Bool} (h : lt = false) : (if lt = isMin then a else b) = if isMin then b else a := by
  subst h
  cases isMin <;> rfl

theorem magDiffers_iff : (extMagLt F a b || extMagLt F b a) = true ↔ ExtMagLt F a b ∨ ExtMagLt F b a := by
  rw [Bool.or_eq_true, extMagLt_iff, extMagLt_iff]

theorem magDiffers_eq_false (h : ¬(ExtMagLt F a b ∨ ExtMagLt F b a)) : (extMagLt F a b || extMagLt F b a) = false :=
  Bool.eq_false_iff.mpr (mt magDiffers_iff.mp h)

theorem pickMinMax_of_magDiffers (h : (extMagLt F a b || extMagLt F b a) = true) :
    pickMinMax F isMin true a b = if extMagLt F a b = isMin then a else b := by simp [pickMinMax, h]

theorem pickMinMax_of_sign_ne (h : isMag = false ∨ ¬(ExtMagLt F a b ∨ ExtMagLt F b a)) (hs : sign F a ≠ sign F b) :
    pickMinMax F isMin isMag a b = if sign F a = isMin then a else b := by
  have hmag : (isMag && (extMagLt F a b || extMagLt F b a)) = false := Bool.and_eq_false_iff.mpr (h.imp_right magDiffers_eq_false)
  simp [pickMinMax, hmag, hs]

theorem pickMinMax_of_same (h : ¬(ExtMagLt F a b ∨ ExtMagLt F b a)) (hs : sign F a = sign F b) : pickMinMax F isMin isMag a b = b := by
  simp [pickMinMax, magDiffers_eq_false h, hs]

/-- Of one sign and different magnitudes, the operands are told apart by their values. -/
theorem pickMinMax_of_sign_eq (hs : sign F a = sign F b) (h : (extMagLt F a b || extMagLt F b a) = true) :
    pickMinMax F isMin false a b = if extLt F a b = isMin then a else b := by
  have hlt : extLt F a b = (extMagLt F a b ^^ sign F a) := by
    rw [extLt_of_sign_eq hs]
    rcases hab : extMagLt F a b with _ | _
    · rw [hab, Bool.false_or] at h
      cases sign F a <;> simp [h]
    · cases sign F a <;> simp [extMagLt_asymm hab]
  simp [pickMinMax, hs, h, hlt]

/-- Where the value tells two operands of one sign apart, so does the magnitude. -/
theorem magDiffers_of_extLt (hs : sign F a = sign F b) (h : extLt F a b = true) : (extMagLt F a b || extMagLt F b a) = true := by
  rw [extLt_of_sign_eq hs] at h
  rw [Bool.or_eq_true]
  split at h
  · exact .inr h
  · exact .inl h

theorem pickMinMax_of_mag_lt (h : ExtMagLt F a b) : pickMinMax F isMin true a b = if isMin then a else b :=
  (pickMinMax_of_magDiffers (magDiffers_iff.mpr (.inl h))).trans (ite_eq_of_lt ((extMagLt_iff F a b).mpr h))

theorem pickMinMax_of_mag_gt (h : ExtMagLt F b a) : pickMinMax F isMin true a b = if isMin then b else a :=
  (pickMinMax_of_magDiffers (magDiffers_iff.mpr (.inr h))).trans (ite_eq_of_not_lt (extMagLt_asymm ((extMagLt_iff F b a).mpr h)))

theorem pickMinMax_of_lt (hs : sign F a = sign F b) (h : ExtLt F a b) : pickMinMax F isMin false a b = if isMin then a else b := by
  have hlt := (extLt_iff F a b).mpr h
  exact (pickMinMax_of_sign_eq hs (magDiffers_of_extLt hs hlt)).trans (ite_eq_of_lt hlt)

theorem pickMinMax_of_gt (hs : sign F a = sign F b) (h : ExtLt F b a) : pickMinMax F isMin false a b = if isMin then b else a := by
  have hgt := (extLt_iff F b a).mpr h
  have hmag := magDiffers_of_extLt hs.symm hgt
  rw [Bool.or_comm] at hmag
  exact (pickMinMax_of_sign_eq hs hmag).trans (ite_eq_of_not_lt (extLt_asymm hgt))

variable (pol : Config.NanPolicy)

theorem minMaxSquashed_of_isQNaN_left (ha : isQNaN pol F a = true) (hb : isNaN F b = false) : minMaxSquashed pol F isMin isMag a b = quietly b := by
  have hn : isNaN F a = true := (Bool.and_eq_true_iff.mp ha).1
  simp [minMaxSquashed, hn, ha, hb]

theorem minMaxSquashed_of_isQNaN_right (hb : isQNaN pol F b = true) (ha : isNaN F a = false) : minMaxSquashed pol F isMin isMag a b = quietly a := by
  have hn : isNaN F b = true := (Bool.and_eq_true_iff.mp hb).1
  have hq : isQNaN pol F a = false := by rw [isQNaN, ha, Bool.false_and]
  simp [minMaxSquashed, hn, hq, hb, ha]

/-- Two NaNs, or a signaling one, propagate. -/
theorem minMaxSquashed_of_propagates
    (h : (isNaN F a = true ∧ isNaN F b = true) ∨ (isNaN F a = true ∧ isQNaN pol F a = false) ∨ (isNaN F b = true ∧ isQNaN pol F b = false)) :
    minMaxSquashed pol F isMin isMag a b = propNaN2 pol F a b := by
  rcases h with ⟨ha, hb⟩ | ⟨ha, hq⟩ | ⟨hb, hq⟩
  · simp [minMaxSquashed, ha, hb]
  · simp [minMaxSquashed, ha, hq]
  · simp [minMaxSquashed, hb, hq]

theorem minMaxSquashed_of_not_isNaN (ha : isNaN F a = false) (hb : isNaN F b = false) :
    minMaxSquashed pol F isMin isMag a b = quietly (pickMinMax F isMin isMag a b) := by simp [minMaxSquashed, ha, hb]

end MinMax

/-- R298 to R301: the four operations end as the common rule does. -/
theorem delivers_minMax (F : Fmt) (isMin isMag : Bool) (s : State) :
    Delivers (if isMag then (if isMin then Row.fminnummag F else Row.fmaxnummag F) else (if isMin then Row.fminnum F else Row.fmaxnum F)) s F
      (squashFlag s.ctl F (patA F s) ||| squashFlag s.ctl F (patB F s))
      (.ok (minMaxSquashed nanPolicy F isMin isMag (squash s.ctl F (patA F s)) (squash s.ctl F (patB F s)))) := by
  rcases isMag with _ | _ <;> rcases isMin with _ | _
  · exact delivers_of_completePat (v := .ok _) (exec_fmaxnum F s)
  · exact delivers_of_completePat (v := .ok _) (exec_fminnum F s)
  · exact delivers_of_completePat (v := .ok _) (exec_fmaxnummag F s)
  · exact delivers_of_completePat (v := .ok _) (exec_fminnummag F s)

/-- Settles O56: the NaN cases of the rule (`minMaxSquashed_of_isQNaN_left` and the lemmas after it), and for two numbers one lemma about `pickMinMax` for each
clause. (The short name `minMax` is the model's function.) -/
theorem CompareMinMax.minMax : Obligations.MinMax := by
  intro F isMin isMag s i a b m qnan gives magDiffers
  have hd : Delivers i s F m (.ok (minMaxSquashed nanPolicy F isMin isMag a b)) := delivers_minMax F isMin isMag s
  have hqnan (x : Pat) : qnan x = isQNaN nanPolicy F x := congrArg (isNaN F x && ·) (Bool.not_not _).symm
  rw [hqnan a, hqnan b]
  refine ⟨fun ha hb => ?_, fun hb ha => ?_, fun h => ?_, fun ha hb => ?_⟩
  · exact hd.answers_quietly (congrArg _ (minMaxSquashed_of_isQNaN_left nanPolicy ha hb))
  · exact hd.answers_quietly (congrArg _ (minMaxSquashed_of_isQNaN_right nanPolicy hb ha))
  · rwa [minMaxSquashed_of_propagates nanPolicy h] at hd
  · have hpick {p : Pat} (hp : pickMinMax F isMin isMag a b = p) : gives p :=
      hd.answers_quietly (congrArg _ ((minMaxSquashed_of_not_isNaN nanPolicy ha hb).trans (congrArg quietly hp)))
    refine ⟨fun hm h => hpick ?_, fun hm h => hpick ?_, fun hm hs => hpick ?_, fun hm hs h => hpick ?_, fun hm hs h => hpick ?_, fun h hs => hpick ?_⟩
    · rw [hm]
      exact pickMinMax_of_mag_lt h
    · rw [hm]
      exact pickMinMax_of_mag_gt h
    · exact pickMinMax_of_sign_ne hm hs
    · rw [hm]
      exact pickMinMax_of_lt hs h
    · rw [hm]
      exact pickMinMax_of_gt hs h
    · exact pickMinMax_of_same h hs

end Sys2Proof.Machine
end
section
/-!
SUPPORT. The status-context accesses (spec/47_status_ops.md): a request that raises no flag leaves `FLG` as it stood, and a register write reads only the low
bits of `A`.
-/

namespace Sys2Proof.Machine

/-! ## Register reads and writes (R320 to R323) -/

/-- A request that raises no flag leaves `FLG` as it stood. -/
@[simp] theorem setflag_zero (s : State) : setflag 0 s = s :=
  congrArg (fun flg => { s with flg := flg }) BitVec.or_zero

/-- The low bits of `A`, as many as a register holds, are the low bits of the register operand. -/
theorem setWidth_wordA {k : ℕ} (hk : k ≤ 32) (s : State) : (wordA s).setWidth k = s.request.a.setWidth k :=
  BitVec.setWidth_setWidth_of_le _ hk

theorem writeCtl_wordA (s : State) : writeCtl (wordA s) s = { s with ctl := (s.request.a.setWidth 8).setWidth 32 } := by
  rw [writeCtl, setWidth_wordA (by decide)]

theorem writeFlg_wordA (s : State) : writeFlg (wordA s) s = { s with flg := (s.request.a.setWidth 7).setWidth 32 } := by
  rw [writeFlg, setWidth_wordA (by decide)]

/-- The register's bits reach the port zero-extended, through the 32 of the register word. -/
theorem answers_rdctl (s : State) : Answers .rdctl s ((s.ctl.setWidth 8).setWidth 256) 0 0 :=
  (answers_iff_of_exec (exec_rdctl s)).mpr (BitVec.setWidth_setWidth (by decide)).symm

theorem answers_rdflg (s : State) : Answers .rdflg s ((s.flg.setWidth 7).setWidth 256) 0 0 :=
  (answers_iff_of_exec (exec_rdflg s)).mpr (BitVec.setWidth_setWidth (by decide)).symm

theorem exec_wrctl_eq (s : State) :
    exec .wrctl s = .next { s with ctl := (s.request.a.setWidth 8).setWidth 32, response := some { r := 0, x := 0, err := 0 } } := by
  rw [exec_wrctl, execWrctl, writeCtl_wordA, answer, setflag_zero]
  rfl

theorem exec_wrflg_eq (s : State) :
    exec .wrflg s = .next { s with flg := (s.request.a.setWidth 7).setWidth 32, response := some { r := 0, x := 0, err := 0 } } := by
  rw [exec_wrflg, execWrflg, writeFlg_wordA, answer, setflag_zero]
  rfl

/-- Settles O57: the two reads and the two writes, one lemma each. -/
theorem statusAccess : Obligations.StatusAccess := fun s =>
  ⟨answers_rdctl s, answers_rdflg s, exec_wrctl_eq s, exec_wrflg_eq s⟩

end Sys2Proof.Machine
end

section
/-!
SUPPORT. A legal command word is the encoding of what it decodes to (spec/30_encoding.md R70 to R76): what each reader of a row asks of the word's fields, which
are then the fields of the row's command.
-/

namespace Sys2Proof

/-! ## The selectors' codes -/

/-- The word-count code (R73). -/
def Words.code : Words → BitVec 3
  | .w1 => 0
  | .w2 => 1
  | .w3 => 2
  | .w4 => 3

/-- The format code (R71). -/
def Fmt.code : Fmt → BitVec 3
  | .f16 => 0
  | .f32 => 1
  | .f64 => 2
  | .f80 => 3
  | .f128 => 4

/-- The integer type code (R72). -/
def IntTy.code : IntTy → BitVec 3
  | .i32 => 0
  | .i64 => 1
  | .u32 => 2
  | .u64 => 3

theorem code_of_wordsOf {f : BitVec 3} {n : Words} (h : wordsOf f = some n) : n.code = f := by revert f; cases n <;> decide
theorem code_of_fmtOf {f : BitVec 3} {F : Fmt} (h : fmtOf f = some F) : F.code = f := by revert f; cases F <;> decide
theorem code_of_intTyOf {f : BitVec 3} {T : IntTy} (h : intTyOf f = some T) : T.code = f := by revert f; cases T <;> decide

theorem modBit_of_upperBits {m : BitVec 4} (h : m.extractLsb' 1 3 = 0) : modBit (m.getLsbD 0) = m := by revert m; decide
theorem modBits_getLsbD (m : BitVec 4) : modBits (m.getLsbD 0) (m.getLsbD 1) (m.getLsbD 2) (m.getLsbD 3) = m := by revert m; decide

theorem need_eq_ok_iff {α : Type} {e : IllegalCause} {x : Option α} {v : α} : need e x = .ok v ↔ x = some v := by
  cases x <;> simp [need]

/-! ## What a reader's answer says of the fields -/

theorem plain_eq_ok_iff {c : Command} {i j : Instr} : plain c i = .ok j ↔ c.fmt2 = 0 ∧ c.mod = 0 ∧ i = j := by
  simp [plain, check_eq_ok_iff]

theorem oneBit_eq_ok_iff {c : Command} {f : Bool → Instr} {j : Instr} :
    oneBit c f = .ok j ↔ c.mod.extractLsb' 1 3 = 0 ∧ f (c.mod.getLsbD 0) = j := by
  simp [oneBit, check_eq_ok_iff]

section Readers
variable {c : Command} {k : ℕ} {i : Instr} (hr : c.rsv = 0) (ho : c.opc.toNat = k)
include hr ho

/-- An instruction whose row has the word's fields has the word's command: the operation code is `k` and no reserved bit is set. -/
theorem command_eq {j : Instr} {f f2 : BitVec 3} {m : BitVec 4} (hj : j.command = .row (BitVec.ofNat 8 k) f f2 m) (hf : f = c.fmt) (h2 : f2 = c.fmt2)
    (hm : m = c.mod) : j.command = c := by
  obtain ⟨opc, fmt, fmt2, mod, rsv⟩ := c
  subst hr ho hf h2 hm
  rw [hj, Command.row, BitVec.ofNat_toNat, BitVec.setWidth_eq]

theorem command_of_rowWords {row : Words → Instr} (hrow : ∀ n, (row n).command = .row (BitVec.ofNat 8 k) n.code 0 0) (h : rowWords row c = .ok i) :
    i.command = c := by
  rw [rowWords] at h
  rcases hn : wordsOf c.fmt with _ | n <;> simp only [hn, need, plain_eq_ok_iff, reduceCtorEq] at h
  obtain ⟨h2, hm, rfl⟩ := h
  exact command_eq hr ho (hrow n) (code_of_wordsOf hn) h2.symm hm.symm

theorem command_of_rowMul {row : Words → Option Instr} (hrow : ∀ n j, row n = some j → j.command = .row (BitVec.ofNat 8 k) n.code 0 0)
    (h : rowMul row c = .ok i) : i.command = c := by
  rw [rowMul] at h
  rcases hj : (wordsOf c.fmt).bind row with _ | j <;> simp only [hj, need, plain_eq_ok_iff, reduceCtorEq] at h
  obtain ⟨h2, hm, rfl⟩ := h
  obtain ⟨n, hn, hj⟩ := Option.bind_eq_some_iff.mp hj
  exact command_eq hr ho (hrow n j hj) (code_of_wordsOf hn) h2.symm hm.symm

theorem command_of_rowFixed {f : BitVec 3} {j : Instr} (hrow : j.command = .row (BitVec.ofNat 8 k) f 0 0) (h : rowFixed f j c = .ok i) :
    i.command = c := by
  rw [rowFixed, check_eq_ok_iff, plain_eq_ok_iff, beq_iff_eq] at h
  obtain ⟨hf, h2, hm, rfl⟩ := h
  exact command_eq hr ho hrow hf.symm h2.symm hm.symm

theorem command_of_rowFmt {row : Fmt → Instr} (hrow : ∀ F, (row F).command = .row (BitVec.ofNat 8 k) F.code 0 0) (h : rowFmt row c = .ok i) :
    i.command = c := by
  rw [rowFmt] at h
  rcases hF : fmtOf c.fmt with _ | F <;> simp only [hF, need, plain_eq_ok_iff, reduceCtorEq] at h
  obtain ⟨h2, hm, rfl⟩ := h
  exact command_eq hr ho (hrow F) (code_of_fmtOf hF) h2.symm hm.symm

theorem command_of_rowFmtBit {row : Fmt → Bool → Instr} (hrow : ∀ F b, (row F b).command = .row (BitVec.ofNat 8 k) F.code 0 (modBit b))
    (h : rowFmtBit row c = .ok i) : i.command = c := by
  rw [rowFmtBit] at h
  rcases hF : fmtOf c.fmt with _ | F <;> simp only [hF, need, check_eq_ok_iff, oneBit_eq_ok_iff, beq_iff_eq, reduceCtorEq] at h
  obtain ⟨h2, hm, rfl⟩ := h
  exact command_eq hr ho (hrow F _) (code_of_fmtOf hF) h2.symm (modBit_of_upperBits hm)

theorem command_of_rowFma {row : Fmt → Bool → Bool → Bool → Bool → Instr}
    (hrow : ∀ F b b₁ b₂ b₃, (row F b b₁ b₂ b₃).command = .row (BitVec.ofNat 8 k) F.code 0 (modBits b b₁ b₂ b₃)) (h : rowFma row c = .ok i) :
    i.command = c := by
  rw [rowFma] at h
  rcases hF : fmtOf c.fmt with _ | F <;> simp only [hF, need, check_eq_ok_iff, beq_iff_eq, Except.ok.injEq, reduceCtorEq] at h
  obtain ⟨h2, rfl⟩ := h
  exact command_eq hr ho (hrow F _ _ _ _) (code_of_fmtOf hF) h2.symm (modBits_getLsbD c.mod)

theorem command_of_rowInt {row : IntTy → Instr} (hrow : ∀ T, (row T).command = .row (BitVec.ofNat 8 k) 0 T.code 0) (h : rowInt row c = .ok i) :
    i.command = c := by
  rw [rowInt, check_eq_ok_iff, beq_iff_eq] at h
  obtain ⟨hf, h⟩ := h
  rcases hT : intTyOf c.fmt2 with _ | T <;> simp only [hT, need, check_eq_ok_iff, beq_iff_eq, Except.ok.injEq, reduceCtorEq] at h
  obtain ⟨hm, rfl⟩ := h
  exact command_eq hr ho (hrow T) hf.symm (code_of_intTyOf hT) hm.symm

theorem command_of_rowFmtInt {row : Fmt → IntTy → Instr} (hrow : ∀ F T, (row F T).command = .row (BitVec.ofNat 8 k) F.code T.code 0)
    (h : rowFmtInt row c = .ok i) : i.command = c := by
  rw [rowFmtInt] at h
  rcases hF : fmtOf c.fmt with _ | F <;> rcases hT : intTyOf c.fmt2 with _ | T <;>
    simp only [hF, hT, need, check_eq_ok_iff, beq_iff_eq, Except.ok.injEq, reduceCtorEq] at h
  obtain ⟨hm, rfl⟩ := h
  exact command_eq hr ho (hrow F T) (code_of_fmtOf hF) (code_of_intTyOf hT) hm.symm

theorem command_of_rowFmtIntBit {row : Fmt → IntTy → Bool → Instr}
    (hrow : ∀ F T b, (row F T b).command = .row (BitVec.ofNat 8 k) F.code T.code (modBit b)) (h : rowFmtIntBit row c = .ok i) : i.command = c := by
  rw [rowFmtIntBit] at h
  rcases hF : fmtOf c.fmt with _ | F <;> rcases hT : intTyOf c.fmt2 with _ | T <;>
    simp only [hF, hT, need, oneBit_eq_ok_iff, reduceCtorEq] at h
  obtain ⟨hm, rfl⟩ := h
  exact command_eq hr ho (hrow F T _) (code_of_fmtOf hF) (code_of_intTyOf hT) (modBit_of_upperBits hm)

theorem command_of_rowFmtFmt {row : Fmt → Fmt → Option Instr}
    (hrow : ∀ F F' j, row F F' = some j → j.command = .row (BitVec.ofNat 8 k) F.code F'.code 0) (h : rowFmtFmt row c = .ok i) : i.command = c := by
  rw [rowFmtFmt] at h
  rcases hF : fmtOf c.fmt with _ | F <;> simp only [hF, need, reduceCtorEq] at h
  rcases hj : (fmtOf c.fmt2).bind (row F) with _ | j <;> simp only [hj, check_eq_ok_iff, beq_iff_eq, Except.ok.injEq, reduceCtorEq] at h
  obtain ⟨hm, rfl⟩ := h
  obtain ⟨F', hF', hj⟩ := Option.bind_eq_some_iff.mp hj
  exact command_eq hr ho (hrow F F' j hj) (code_of_fmtOf hF) (code_of_fmtOf hF') hm.symm

end Readers

/-! ## The rows of the operation map -/

/-- A word without reserved bits has the fields of the instruction it decodes to. The cases are the rows of R75, grouped by their reader. -/
theorem command_of_decodeFields {c : Command} {i : Instr} (hr : c.rsv = 0) (h : decodeFields c = .ok i) : i.command = c := by
  unfold decodeFields at h
  split at h
  case h_1 ho | h_2 ho | h_3 ho | h_4 ho | h_5 ho | h_6 ho | h_7 ho | h_8 ho | h_9 ho | h_10 ho =>
    exact command_of_rowWords hr ho (fun n => by cases n <;> rfl) h
  case h_11 ho => exact command_of_rowMul hr ho (fun n j hj => by cases n <;> cases hj <;> rfl) h
  case h_12 ho | h_13 ho | h_14 ho | h_48 ho | h_49 ho | h_50 ho | h_51 ho => exact command_of_rowFixed hr ho rfl h
  case h_15 ho | h_16 ho | h_17 ho | h_18 ho | h_19 ho | h_20 ho | h_22 ho | h_23 ho | h_24 ho | h_26 ho | h_30 ho | h_31 ho | h_32 ho |
      h_33 ho | h_34 ho | h_36 ho | h_37 ho | h_38 ho | h_44 ho | h_45 ho | h_46 ho | h_47 ho =>
    exact command_of_rowFmt hr ho (fun F => by cases F <;> rfl) h
  case h_25 ho | h_39 ho | h_40 ho | h_41 ho | h_42 ho | h_43 ho => exact command_of_rowFmtBit hr ho (fun F b => by cases F <;> rfl) h
  case h_21 ho => exact command_of_rowInt hr ho (fun T => by cases T <;> rfl) h
  case h_27 ho => exact command_of_rowFmtInt hr ho (fun F T => by cases F <;> cases T <;> rfl) h
  case h_28 ho => exact command_of_rowFmtIntBit hr ho (fun F T b => by cases F <;> cases T <;> rfl) h
  case h_29 ho => exact command_of_rowFmtFmt hr ho (fun F F' j hj => by cases F <;> cases F' <;> cases hj <;> rfl) h
  case h_35 ho => exact command_of_rowFma hr ho (fun F b b₁ b₂ b₃ => by cases F <;> rfl) h
  case h_52 => cases h

/-- R70: a word is made of its fields. -/
theorem word_ofWord (w : Word) : (Command.ofWord w).word = w := by
  simp only [Command.word, Command.ofWord]
  ext j hj
  grind

/-- Settles O1: by the rows of R75 (`decode_encode`). -/
theorem decodeEncode : Obligations.DecodeEncode := decode_encode

/-- Settles O2: the word that passes check 1 has the fields of the instruction's row (`command_of_decodeFields`), and a word is made of its fields. -/
theorem encodeDecode : Obligations.EncodeDecode := by
  intro w i h
  rw [decode, check_eq_ok_iff, beq_iff_eq] at h
  rw [encode, command_of_decodeFields h.1 h.2, word_ofWord]

/-- Settles O4: a legal word is the encoding of its instruction (`decode_encode`); an illegal one is decoded up to the check that it fails. -/
theorem decodeWords : Obligations.DecodeWords :=
  ⟨decode_encode .add128, decode_encode .mul192x64, decode_encode .divq128, decode_encode .packF80, decode_encode .rpackiU64,
    decode_encode (.propnan3F32 true), decode_encode (.f2iF32I32 true), decode_encode .f2fF32F80, decode_encode (.fmaF32 true true true true),
    decode_encode (.fltF32 true), decode_encode .wrctl, rfl, rfl, rfl, rfl, rfl⟩

end Sys2Proof
end

section
/-!
SUPPORT. How a request ends (spec/60_exceptions.md R340, R344 to R347), and reset (spec/70_reset_and_hazards.md R380 to R382).
-/

namespace Sys2Proof.Machine

/-! ## What a step does with the next input (R347) -/

section Steps
variable {s : State} {q : Request} {rest : List Input}

theorem step_of_legal {i : Instr} (hi : s.inputs = .request q :: rest) (hh : s.halt = false) (hd : decode q.cmd = .ok i) :
    step s = exec i (accept q rest s) := by
  rw [step, stepBy, hi]
  simp [answerRequest, hh, hd]

theorem step_of_halted (hi : s.inputs = .request q :: rest) (hh : s.halt = true) : step s = .next (answerHalted (accept q rest s)) := by
  rw [step, stepBy, hi]
  simp [answerRequest, hh]

theorem step_of_reset {abandoned : Option Request} (hi : s.inputs = .reset abandoned :: rest) : step s = .next (takeReset rest s) := by
  rw [step, stepBy, hi]

end Steps

/-- Settles O5: `step_of_legal`, the state that holds the request being `accept`'s. -/
theorem stepRunsDecoded : Obligations.StepRunsDecoded := fun _ _ _ _ hi hh hd => step_of_legal hi hh hd

/-! ## Who clears `HALT` -/

/-- R345, R380: a halted unit stays halted in every step that takes no reset. -/
theorem step_keeps_halt {s t : State} (h : step s = .next t) (hh : s.halt = true) : t.halt = true ∨ ∃ abandoned rest, s.inputs = .reset abandoned :: rest := by
  rcases step_cases s with ⟨-, hs⟩ | ⟨a, rest, hi, -⟩ | ⟨q, q', rest, -, hs⟩ | ⟨q, rest, -, -, hs⟩ | ⟨q, rest, c, -, hf, -⟩ | ⟨q, rest, i, -, hf, -⟩
  · cases hs.symm.trans h; exact .inl hh
  · exact .inr ⟨a, rest, hi⟩
  · cases hs.symm.trans h
  · cases hs.symm.trans h; exact .inl hh
  · cases hf.symm.trans hh
  · cases hf.symm.trans hh

/-- Settles O6: `step_of_halted`, and `step_keeps_halt`. -/
theorem haltedUnit : Obligations.HaltedUnit :=
  ⟨fun _ _ _ hi hh => step_of_halted hi hh, fun _ _ h hh ht => (step_keeps_halt h hh).resolve_left (by simp [ht])⟩

/-- Settles O12: the fields of `takeReset`, whose registers come up with no more bits than they hold (`toNat_setWidth_lt`), and `step_keeps_halt`. -/
theorem resetInput : Obligations.ResetInput := by
  refine ⟨fun s abandoned rest hi => ⟨_, step_of_reset hi, rfl, ?_, ?_, rfl, rfl, rfl, rfl⟩, fun s t h hh hno => ?_⟩
  · exact toNat_setWidth_lt 32 _
  · exact toNat_setWidth_lt 32 _
  · exact (step_keeps_halt h hh).resolve_right fun ⟨abandoned, rest, hi⟩ => hno abandoned rest hi

/-! ## Setting the registers after a reset (R382) -/

section Writes
variable {s : State} {a b : Wide} {c : Pat} {rest : List Input} (hh : s.halt = false)
include hh

theorem step_wrctl_word (hi : s.inputs = .request { cmd := 0x81, a := a, b := b, c := c } :: rest) :
    ∃ t, step s = .next t ∧ t.halt = false ∧ t.ctl = (a.setWidth 8).setWidth 32 ∧ t.flg = s.flg ∧ t.inputs = rest ∧
      t.response = some { r := 0, x := 0, err := 0 } :=
  ⟨_, (step_of_legal hi hh (decode_encode .wrctl)).trans (exec_wrctl_eq _), hh, rfl, rfl, rfl, rfl⟩

theorem step_wrflg_word (hi : s.inputs = .request { cmd := 0x83, a := a, b := b, c := c } :: rest) :
    ∃ t, step s = .next t ∧ t.halt = false ∧ t.flg = (a.setWidth 7).setWidth 32 ∧ t.ctl = s.ctl ∧ t.inputs = rest ∧
      t.response = some { r := 0, x := 0, err := 0 } :=
  ⟨_, (step_of_legal hi hh (decode_encode .wrflg)).trans (exec_wrflg_eq _), hh, rfl, rfl, rfl, rfl⟩

end Writes

/-- Settles O13: the reset clears `HALT`, and each write sets its register and keeps the other. -/
theorem bootSequence : Obligations.BootSequence := by
  intro s abandoned v f b b' c c' first rest wrctl wrflg hi
  have hreset := step_of_reset hi
  rcases first with _ | _
  · obtain ⟨t1, h1, hh1, hf1, -, hi1, hr1⟩ := step_wrflg_word (s := takeReset (wrflg :: wrctl :: rest) s) rfl rfl
    obtain ⟨t2, h2, hh2, hc2, hf2, hi2, hr2⟩ := step_wrctl_word hh1 hi1
    exact ⟨_, t1, t2, hreset, h1, h2, hh2, hc2, hf2.trans hf1, hi2, hr1, hr2⟩
  · obtain ⟨t1, h1, hh1, hc1, -, hi1, hr1⟩ := step_wrctl_word (s := takeReset (wrctl :: wrflg :: rest) s) rfl rfl
    obtain ⟨t2, h2, hh2, hf2, hc2, hi2, hr2⟩ := step_wrflg_word hh1 hi1
    exact ⟨_, t1, t2, hreset, h1, h2, hh2, hc2.trans hc1, hf2, hi2, hr1, hr2⟩

/-! ## How an instruction ends (R340) -/

/-- The instruction `i` completed with `ERR = 0`, from `s` to `t`: what it did to the registers. -/
structure Completed (i : Instr) (s t : State) : Prop where
  halt : t.halt = s.halt
  ctl : i ≠ .wrctl → t.ctl = s.ctl
  wrctl : i = .wrctl → t.ctl = (s.request.a.setWidth 8).setWidth 32 ∧ t.flg = s.flg
  flg : i ≠ .wrflg → ∃ m : Flags, t.flg = s.flg ||| m.setWidth 32
  wrflg : i = .wrflg → t.flg = (s.request.a.setWidth 7).setWidth 32

theorem completed_wrctl (s : State) (resp : Option Response) :
    Completed .wrctl s { s with ctl := (s.request.a.setWidth 8).setWidth 32, response := resp } where
  halt := rfl
  ctl h := absurd rfl h
  wrctl _ := ⟨rfl, rfl⟩
  flg _ := ⟨0, by simp⟩
  wrflg h := by cases h

theorem completed_wrflg (s : State) (resp : Option Response) :
    Completed .wrflg s { s with flg := (s.request.a.setWidth 7).setWidth 32, response := resp } where
  halt := rfl
  ctl _ := rfl
  wrctl h := by cases h
  flg h := absurd rfl h
  wrflg _ := rfl

theorem completed_answer {i : Instr} (hc : i ≠ .wrctl) (hf : i ≠ .wrflg) (s : State) (r : Wide) (x : Dword) (m : Flags) :
    Completed i s (answer r x m s) where
  halt := rfl
  ctl _ := rfl
  wrctl h := absurd h hc
  flg _ := ⟨m, rfl⟩
  wrflg h := absurd h hf

/-- The ports' request, the inputs and the model's own two numbers are as they were. -/
def KeepsSurroundings (s t : State) : Prop := t.request = s.request ∧ t.inputs = s.inputs ∧ t.resets = s.resets ∧ t.unitNo = s.unitNo

/-- Every instruction ends in one of two ways: it completes, or it violates its contract. -/
theorem exec_ends (i : Instr) (s : State) :
    ∃ t resp, exec i s = .next t ∧ t.response = some resp ∧ KeepsSurroundings s t ∧
      ((resp.err = 0 ∧ Completed i s t) ∨ (resp = { r := 0, x := 0, err := 2 } ∧ t.halt = true ∧ t.ctl = s.ctl ∧ t.flg = s.flg)) := by
  by_cases hc : i = .wrctl
  · subst hc
    exact ⟨_, _, exec_wrctl_eq s, rfl, ⟨rfl, rfl, rfl, rfl⟩, .inl ⟨rfl, completed_wrctl s _⟩⟩
  by_cases hf : i = .wrflg
  · subst hf
    exact ⟨_, _, exec_wrflg_eq s, rfl, ⟨rfl, rfl, rfl, rfl⟩, .inl ⟨rfl, completed_wrflg s _⟩⟩
  rcases exec_cases i hc hf s with ⟨r, x, m, ha⟩ | hv
  · exact ⟨_, _, ha, rfl, ⟨rfl, rfl, rfl, rfl⟩, .inl ⟨rfl, completed_answer hc hf s r x m⟩⟩
  · exact ⟨_, _, hv, rfl, ⟨rfl, rfl, rfl, rfl⟩, .inr ⟨rfl, rfl, rfl, rfl⟩⟩

/-- Settles O8: a halted unit answers `ERR = 2`, a word that does not decode `ERR = 1`, and an instruction ends as `exec_ends` says. -/
theorem threeOutcomes : Obligations.ThreeOutcomes := by
  intro s q rest hi
  rcases hh : s.halt with _ | _
  · rcases hd : decode q.cmd with c | i
    · exact ⟨_, _, step_of_illegal hi hh hd, rfl, rfl, rfl, rfl, rfl, .inr (.inl ⟨rfl, rfl, hh, ⟨c, rfl⟩, rfl, rfl⟩)⟩
    · obtain ⟨t, resp, hx, hresp, ⟨hreq, hin, hres, hno⟩, hend⟩ := exec_ends i (accept q rest s)
      refine ⟨t, resp, (step_of_legal hi hh hd).trans hx, hresp, hreq, hin, hres, hno, ?_⟩
      rcases hend with ⟨herr, hdone⟩ | hviol
      · exact .inl ⟨herr, rfl, hdone.halt.trans hh, i, rfl, hdone.ctl, hdone.wrctl, hdone.flg, hdone.wrflg⟩
      · exact .inr (.inr hviol)
  · exact ⟨_, _, step_of_halted hi hh, rfl, rfl, rfl, rfl, rfl, .inr (.inr ⟨rfl, hh, rfl, rfl⟩)⟩

end Sys2Proof.Machine
end

section
/-!
SUPPORT. How a rule can end: with a contract violation only where `CTL` holds a reserved code (spec/60_exceptions.md R344), and else with flags of a given mask that
agree with one another (R341). Each lemma follows its rule branch by branch.
-/

namespace Sys2Proof.Machine

/-! ## Masks of flags -/

/-- `OVERFLOW` and `UNDERFLOW` come with `INEXACT`, and a flushed result with none of the three (R341). -/
def Coherent (m : Flags) : Prop :=
  (m.getLsbD 2 = true → m.getLsbD 4 = true) ∧ (m.getLsbD 3 = true → m.getLsbD 4 = true) ∧
    (m.getLsbD 6 = true → m.getLsbD 2 = false ∧ m.getLsbD 3 = false ∧ m.getLsbD 4 = false)

/-- The flags `m` are coherent and all in `mask`. -/
def Allowed (mask m : Flags) : Prop := m &&& ~~~mask = 0 ∧ Coherent m

/-- The flags that rounding can set (R341). -/
def engineFlags : Flags := Flag.overflow ||| Flag.underflow ||| Flag.inexact ||| Flag.outputDenormal

theorem and_not_eq_zero_iff {mask m : Flags} : m &&& ~~~mask = 0 ↔ ∀ j < 7, m.getLsbD j = true → mask.getLsbD j = true := by
  rw [BitVec.eq_of_getLsbD_eq_iff]
  refine forall₂_congr fun j hj => ?_
  rw [BitVec.getLsbD_and, BitVec.getLsbD_not]
  cases m.getLsbD j <;> simp [hj]

theorem allowed_zero (mask : Flags) : Allowed mask 0 := ⟨BitVec.zero_and, by unfold Coherent; decide⟩

theorem Allowed.or_left {mask m : Flags} (h : Allowed mask m) (mask' : Flags) : Allowed (mask' ||| mask) m := by
  refine ⟨and_not_eq_zero_iff.mpr fun j hj hm => ?_, h.2⟩
  rw [BitVec.getLsbD_or, and_not_eq_zero_iff.mp h.1 j hj hm, Bool.or_true]

theorem Allowed.or_right {mask m : Flags} (h : Allowed mask m) (mask' : Flags) : Allowed (mask ||| mask') m :=
  BitVec.or_comm mask' mask ▸ h.or_left mask'

/-- A flag other than the engine's agrees with any flags. -/
theorem Allowed.raise_inputDenormal {mask m m' : Flags} (h : Allowed mask m) (hm' : m' &&& ~~~Flag.inputDenormal = 0) :
    Allowed (Flag.inputDenormal ||| mask) (m' ||| m) := by
  have hcases : m' = 0 ∨ m' = Flag.inputDenormal := by revert m'; decide
  have hcoh : Coherent (m' ||| m) := by
    rcases hcases with rfl | rfl <;> simpa [Coherent, Flag.inputDenormal] using h.2
  refine ⟨and_not_eq_zero_iff.mpr fun j hj hm => ?_, hcoh⟩
  rw [BitVec.getLsbD_or, Bool.or_eq_true] at hm ⊢
  exact hm.imp (and_not_eq_zero_iff.mp hm' j hj) (and_not_eq_zero_iff.mp h.1 j hj)

theorem allowed_flagIf {f : Flags} (h : Coherent f) (p : Bool) : Allowed f (flagIf p f) := by
  cases p
  · exact allowed_zero f
  · exact ⟨by simp [flagIf], h⟩

theorem allowed_invalidIf (p : Bool) : Allowed Flag.invalid (flagIf p Flag.invalid) := allowed_flagIf (by unfold Coherent; decide) p
theorem allowed_inexactIf (p : Bool) : Allowed Flag.inexact (flagIf p Flag.inexact) := allowed_flagIf (by unfold Coherent; decide) p
theorem allowed_invalid : Allowed Flag.invalid Flag.invalid := allowed_invalidIf true
theorem allowed_inexact : Allowed Flag.inexact Flag.inexact := allowed_inexactIf true
theorem allowed_divByZero : Allowed Flag.divByZero Flag.divByZero := allowed_flagIf (by unfold Coherent; decide) true
theorem allowed_outputDenormal : Allowed Flag.outputDenormal Flag.outputDenormal := allowed_flagIf (by unfold Coherent; decide) true

/-! ## How a rule ends -/

/-- The rule ends in a fault, and `CTL` holds a reserved code; or it ends in a result, with flags that `mask` allows. -/
def EndsWithin (ctl : Word) (mask : Flags) {α : Type} : Except ContractCause (Flagged α) → Prop
  | .error _ => ¬(LegalMode ctl ∧ LegalPrecision ctl)
  | .ok v => Allowed mask v.flags

section
variable {ctl : Word} {mask : Flags} {α β : Type} {v w : Except ContractCause (Flagged α)}

theorem EndsWithin.ite {p : Prop} [Decidable p] (hv : EndsWithin ctl mask v) (hw : EndsWithin ctl mask w) : EndsWithin ctl mask (if p then v else w) := by
  split
  · exact hv
  · exact hw

theorem EndsWithin.or_left (hv : EndsWithin ctl mask v) {mask' : Flags} : EndsWithin ctl (mask' ||| mask) v := by
  rcases v with c | v
  · exact hv
  · exact Allowed.or_left hv mask'

theorem EndsWithin.map (hv : EndsWithin ctl mask v) (f : α → β) : EndsWithin ctl mask (v.map (Flagged.map f)) := by
  rcases v with c | v <;> exact hv

/-- The prologue adds at most `INPUT_DENORMAL`. -/
theorem EndsWithin.raise (hv : EndsWithin ctl mask v) {m : Flags} (hm : m &&& ~~~Flag.inputDenormal = 0) :
    EndsWithin ctl (Flag.inputDenormal ||| mask) (v.map (Flagged.raise m)) := by
  rcases v with c | v
  · exact hv
  · exact Allowed.raise_inputDenormal hv hm

theorem squashFlags_and (ctl : Word) (F : Fmt) (a b : Pat) : (squashFlag ctl F a ||| squashFlag ctl F b) &&& ~~~Flag.inputDenormal = 0 :=
  (or_and_mask (squashFlag_and ctl F a) _).trans (squashFlag_and ctl F b)

/-! ## Results without rounding -/

variable (pol : Config.NanPolicy) (F : Fmt) (a b c : Pat)

theorem endsWithin_quietly : EndsWithin ctl mask (.ok (quietly a)) := allowed_zero mask

theorem endsWithin_invalidNaN : EndsWithin ctl (Flag.invalid ||| mask) (.ok (invalidNaN pol F)) := allowed_invalid.or_right mask

theorem endsWithin_propNaN2 : EndsWithin ctl (Flag.invalid ||| mask) (.ok (propNaN2 pol F a b)) := (allowed_invalidIf _).or_right mask

theorem endsWithin_propNaN3 (infzero : Bool) : EndsWithin ctl (Flag.invalid ||| mask) (.ok (propNaN3 nanPolicy F a b c infzero)) := by
  rw [propNaN3_nanPolicy]
  exact (allowed_invalidIf _).or_right mask

end

/-! ## Rounding -/

section
variable {ctl : Word} {mask : Flags} {F : Fmt} {sgn : Bool} {zExp : ℤ} {zSig : ℕ}

theorem endsWithin_rpack_of_flags
    (h : ∀ mode, Allowed mask (roundPackWith F (discarded ctl F) mode (ctlTIN ctl) (ctlFTZ ctl) sgn zExp zSig).flags) :
    EndsWithin ctl mask (rpack ctl F sgn zExp zSig) := by
  by_cases hl : LegalFor F ctl
  · obtain ⟨mode, hm⟩ := modeOf_isSome _ hl.1
    rw [rpack_eq ctl F mode hl hm]
    exact h mode
  · obtain ⟨c, hc⟩ := rpack_error ctl F hl sgn zExp zSig
    rw [hc]
    exact fun hleg => hl ⟨hleg.1, fun _ => hleg.2⟩

theorem readMode_cases (ctl : Word) : (∃ mode, readMode ctl = .ok mode) ∨ (¬LegalMode ctl ∧ readMode ctl = .error .badRoundingMode) :=
  (em (LegalMode ctl)).imp readMode_legal fun h => ⟨h, readMode_error ctl h⟩

theorem endsWithin_rpackFull_of_flags (h : ∀ mode, Allowed mask (roundPackWith F F.G mode (ctlTIN ctl) (ctlFTZ ctl) sgn zExp zSig).flags) :
    EndsWithin ctl mask (rpackFull ctl F sgn zExp zSig) := by
  rcases readMode_cases ctl with ⟨mode, hm⟩ | ⟨hl, hm⟩
  · rw [rpackFull_eq hm]
    exact h mode
  · rw [rpackFull, hm]
    exact fun hleg => hl hleg.1

theorem endsWithin_rpack (ctl : Word) (F : Fmt) (sgn : Bool) (zExp : ℤ) (zSig : ℕ) : EndsWithin ctl engineFlags (rpack ctl F sgn zExp zSig) :=
  endsWithin_rpack_of_flags fun _ => roundPackWith_flags _ _ _ _ _ _ _ _ rfl

theorem endsWithin_rpackFull (ctl : Word) (F : Fmt) (sgn : Bool) (zExp : ℤ) (zSig : ℕ) : EndsWithin ctl engineFlags (rpackFull ctl F sgn zExp zSig) :=
  endsWithin_rpackFull_of_flags fun _ => roundPackWith_flags _ _ _ _ _ _ _ _ rfl

theorem endsWithin_roundPack (ctl : Word) (F : Fmt) (sgn : Bool) (r : Frac) : EndsWithin ctl engineFlags (roundPack ctl F sgn r) :=
  endsWithin_rpack ctl F sgn _ _

theorem endsWithin_nrpack (ctl : Word) (F : Fmt) (sgn : Bool) (zExp : ℤ) (zSig : ℕ) : EndsWithin ctl engineFlags (nrpack ctl F sgn zExp zSig) := by
  have h := endsWithin_rpack ctl F sgn (zExp - (F.N - msb zSig : ℕ)) (zSig * 2 ^ (F.N - msb zSig))
  rw [nrpack]
  rcases hv : rpack ctl F sgn (zExp - (F.N - msb zSig : ℕ)) (zSig * 2 ^ (F.N - msb zSig)) with c | v <;> rw [hv] at h
  · exact h
  · split_ifs
    · exact allowed_zero engineFlags
    · exact h

/-- A number that the format holds is rounded with no flag but the flush's (R179, R230). -/
theorem endsWithin_roundPackFull_of_holds {r : Frac} (hd : 0 < r.den) (h : Holds F r.toRat) (ctl : Word) (sgn : Bool) :
    EndsWithin ctl Flag.outputDenormal (roundPackFull ctl F sgn r) := by
  obtain ⟨k, e, hx, hk, hk2, he, hlt⟩ := h
  have hpos : 0 < r.toRat := by rw [hx]; positivity
  obtain ⟨zExp, zSig, hin, hr⟩ := roundPackFull_input ctl F sgn hd (Frac.num_pos hd hpos)
  have hxR : (r.toRat : ℝ) = k * 2 ^ e := by rw [hx]; push_cast; rfl
  have hltR : (k : ℝ) * 2 ^ e < 2 ^ ((F.bias : ℤ) + 1) := by rw [← hxR]; exact_mod_cast hlt
  rw [hxR] at hin
  rw [hr]
  refine endsWithin_rpackFull_of_flags fun mode => ?_
  obtain ⟨hflush, hkeep⟩ := roundPackWith_exact F mode (ctlTIN ctl) (ctlFTZ ctl) sgn hk hk2 he hltR hin
  by_cases hf : zExp < 0 ∧ ctlFTZ ctl = true
  · rw [hflush hf]
    exact allowed_outputDenormal
  · obtain ⟨p, hp, -⟩ := hkeep hf
    rw [hp]
    exact allowed_zero _

end

end Sys2Proof.Machine
end

section
/-!
SUPPORT. How each rule ends: one case for each of its branches.
-/

namespace Sys2Proof.Machine

/-! ## Arithmetic (R255 to R263) -/

section
variable (pol : Config.NanPolicy) (ctl : Word) (F : Fmt) (a b c : Pat)

theorem endsWithin_addSubSquashed (sub : Bool) : EndsWithin ctl (Flag.invalid ||| engineFlags) (addSubSquashed pol ctl F sub a b) :=
  .ite (endsWithin_propNaN2 ..) <|
    .ite (.ite (endsWithin_invalidNaN ..) (endsWithin_quietly ..)) <|
      .ite (endsWithin_quietly ..) <| .ite (endsWithin_quietly ..) (endsWithin_roundPack ..).or_left

theorem endsWithin_mulSquashed : EndsWithin ctl (Flag.invalid ||| engineFlags) (mulSquashed pol ctl F a b) :=
  .ite (endsWithin_propNaN2 ..) <|
    .ite (.ite (endsWithin_invalidNaN ..) (endsWithin_quietly ..)) <| .ite (endsWithin_quietly ..) (endsWithin_roundPack ..).or_left

theorem endsWithin_divSquashed : EndsWithin ctl (Flag.invalid ||| (Flag.divByZero ||| engineFlags)) (divSquashed pol ctl F a b) :=
  .ite (endsWithin_propNaN2 ..) <|
    .ite (.ite (endsWithin_invalidNaN ..) (endsWithin_quietly ..)) <|
      .ite (endsWithin_quietly ..) <|
        .ite (.ite (endsWithin_invalidNaN ..) ((allowed_divByZero.or_right engineFlags).or_left Flag.invalid)) <|
          .ite (endsWithin_quietly ..) (endsWithin_roundPack ..).or_left.or_left

theorem endsWithin_fmaSquashed (mods : FmaMods) : EndsWithin ctl (Flag.invalid ||| engineFlags) (fmaSquashed nanPolicy ctl F mods a b c) := by
  unfold fmaSquashed
  rw [negateIf_eq_map]
  exact .ite (endsWithin_propNaN3 ..) <|
    .ite (endsWithin_invalidNaN ..) <|
      .ite (.ite (endsWithin_invalidNaN ..) (endsWithin_quietly ..)) <|
        .ite (endsWithin_quietly ..) <| .ite (endsWithin_quietly ..) ((endsWithin_roundPack ..).map _).or_left

theorem endsWithin_scalbnSquashed (n : ℤ) : EndsWithin ctl (Flag.invalid ||| engineFlags) (scalbnSquashed pol ctl F n a) :=
  .ite (endsWithin_propNaN2 ..) <| .ite (endsWithin_quietly ..) <| .ite (endsWithin_quietly ..) (endsWithin_roundPack ..).or_left

end

section
variable (pol : Config.NanPolicy) (ctl : Word) {F : Fmt} {a b : Pat}

/-- A remainder that is not zero is a number of the format. -/
theorem holds_remainder (ha : isFinite F a = true) (hb : valQ F b ≠ 0) (hr : (remainder F a b).toRat ≠ 0) : Holds F |(remainder F a b).toRat| := by
  obtain ⟨k, e, hk, hk2, he, hx, hlt⟩ := remainder_exact F a b ha hb hr
  exact ⟨k, e, hx, hk, hk2, he, hx ▸ (Rat.cast_lt (K := ℝ)).mp (by push_cast; exact hlt)⟩

theorem endsWithin_remSquashed (F : Fmt) (a b : Pat) : EndsWithin ctl (Flag.invalid ||| Flag.outputDenormal) (remSquashed pol ctl F a b) := by
  by_cases hnan : isNaN F a = true ∨ isNaN F b = true
  · rw [remSquashed_of_isNaN pol ctl hnan]
    exact endsWithin_propNaN2 ..
  simp only [not_or, Bool.not_eq_true] at hnan
  obtain ⟨hna, hnb⟩ := hnan
  rcases hia : isInf F a with _ | _
  · have hfa : isFinite F a = true := (isFinite_iff F a).mpr ⟨hia, hna⟩
    rcases hib : isInf F b with _ | _
    · have hfb : isFinite F b = true := (isFinite_iff F b).mpr ⟨hib, hnb⟩
      by_cases h0 : valQ F b = 0
      · rw [remSquashed_of_divisor_eq_zero pol ctl hfa hfb h0]
        exact endsWithin_invalidNaN ..
      · rw [remSquashed_of_isFinite pol ctl hfa hfb h0]
        split_ifs with hr
        · exact endsWithin_quietly ..
        · have hden : 0 < (remainder F a b).abs.den := (remainder_spec F a b h0).1
          have hx := holds_remainder hfa h0 hr
          rw [← Frac.toRat_abs] at hx
          exact (endsWithin_roundPackFull_of_holds hden hx ctl _).or_left
    · rw [remSquashed_of_isFinite_isInf pol ctl hfa hib]
      exact endsWithin_quietly ..
  · rw [remSquashed_of_isInf pol ctl hia hnb]
    exact endsWithin_invalidNaN ..

/-- The root of a positive number lies well within the exponents of the format: no overflow, nothing tiny (R261). -/
theorem toEngine_sqrtFrac_range (hfin : isFinite F a = true) (hpos : 0 < valQ F a) :
    0 ≤ (toEngine F (sqrtFrac F a)).1 ∧ (toEngine F (sqrtFrac F a)).1 < (F.emaxf : ℤ) - 2 := by
  obtain ⟨-, hin⟩ := sqrtFrac_input F a hpos
  have hposR : (0 : ℝ) < valQ F a := by exact_mod_cast hpos
  have hroot : 0 < Real.sqrt (valQ F a) := Real.sqrt_pos.mpr hposR
  have hF : 2 * (1 - (F.bias : ℤ)) ≤ F.emin - F.FB ∧ (F.bias : ℤ) + 1 ≤ 2 * F.bias := by cases F <;> decide
  have hlow : (2 : ℝ) ^ (1 - (F.bias : ℤ)) ≤ Real.sqrt (valQ F a) := by
    refine Real.le_sqrt_of_sq_le ?_
    have hge := (holds_abs_valQ hfin hpos.ne').ge
    rw [abs_of_pos hpos] at hge
    rw [← zpow_natCast, ← zpow_mul]
    calc (2 : ℝ) ^ ((1 - (F.bias : ℤ)) * (2 : ℕ)) ≤ 2 ^ (F.emin - F.FB) := zpow_le_zpow_right₀ one_le_two (by push_cast; omega)
      _ ≤ valQ F a := by simpa using (Rat.cast_le (K := ℝ)).mpr hge
  have hhigh : Real.sqrt (valQ F a) < 2 ^ (F.bias : ℤ) := by
    refine (Real.sqrt_lt' (by positivity)).mpr ?_
    have hlt := abs_valQ_lt hfin
    rw [abs_of_pos hpos] at hlt
    rw [← zpow_natCast, ← zpow_mul]
    calc (valQ F a : ℝ) < 2 ^ ((F.bias : ℤ) + 1) := by exact_mod_cast hlt
      _ ≤ 2 ^ ((F.bias : ℤ) * (2 : ℕ)) := zpow_le_zpow_right₀ one_le_two (by push_cast; omega)
  have h1 := hin.le_exp hroot hlow
  have h2 := hin.exp_lt hroot hhigh
  have h3 := F.emaxf_eq
  omega

/-- Within the exponents of the format, rounding sets no flag but `INEXACT`. -/
theorem allowed_roundPackWith_normal {Ge : ℕ} {mode : RMode} {tin ftz sgn : Bool} {zExp : ℤ} {zSig : ℕ} (h0 : 0 ≤ zExp) (h1 : zExp < (F.emaxf : ℤ) - 2) :
    Allowed Flag.inexact (roundPackWith F Ge mode tin ftz sgn zExp zSig).flags := by
  obtain ⟨inexact, hfl⟩ := roundPackWith_flags_normal F Ge mode tin ftz sgn zExp zSig h0 h1
  rw [hfl]
  exact allowed_inexactIf inexact

theorem endsWithin_sqrtSquashed (F : Fmt) (a : Pat) : EndsWithin ctl (Flag.invalid ||| Flag.inexact) (sqrtSquashed pol ctl F a) := by
  unfold sqrtSquashed
  split_ifs with hnan hzero hneg hinf
  · exact endsWithin_propNaN2 ..
  · exact endsWithin_quietly ..
  · exact endsWithin_invalidNaN ..
  · exact endsWithin_quietly ..
  · have hfin : isFinite F a = true := (isFinite_iff F a).mpr ⟨by simpa using hinf, by simpa using hnan⟩
    have hpos : 0 < valQ F a := by
      rw [isFiniteZero_iff hfin] at hzero
      rw [valQ_eq_sign_abs, if_neg hneg, one_mul]
      exact abs_pos.mpr hzero
    obtain ⟨h0, h1⟩ := toEngine_sqrtFrac_range hfin hpos
    exact (endsWithin_rpack_of_flags fun _ => allowed_roundPackWith_normal h0 h1).or_left

theorem endsWithin_rintSquashed (F : Fmt) (a : Pat) : EndsWithin ctl (Flag.invalid ||| Flag.inexact) (rintSquashed pol ctl F a) := by
  refine .ite (endsWithin_propNaN2 ..) <| .ite (endsWithin_quietly ..) <| .ite (endsWithin_quietly ..) ?_
  rcases readMode_cases ctl with ⟨mode, hm⟩ | ⟨hl, hm⟩ <;> rw [hm]
  · exact allowed_inexact.or_left Flag.invalid
  · exact fun hleg => hl hleg.1

end

/-! ## Conversions (R231 to R241) and integer rounding (R185) -/

theorem allowed_rpackiWith (mode : RMode) (T : IntTy) (sgn : Bool) (absZ : ℕ) :
    Allowed (Flag.invalid ||| Flag.inexact) (rpackiWith mode T sgn absZ).flags := by
  cases sgn
  · rw [rpackiWith_pos]
    split_ifs
    · exact allowed_invalid.or_right _
    · exact (allowed_inexactIf _).or_left _
  · rw [rpackiWith_neg]
    split_ifs
    · exact allowed_invalid.or_right _
    · exact (allowed_inexactIf _).or_left _

theorem endsWithin_rpacki (ctl : Word) (T : IntTy) (sgn : Bool) (absZ : ℕ) : EndsWithin ctl (Flag.invalid ||| Flag.inexact) (rpacki ctl T sgn absZ) := by
  rcases readMode_cases ctl with ⟨mode, hm⟩ | ⟨hl, hm⟩ <;> rw [rpacki, hm]
  · exact allowed_rpackiWith mode T sgn absZ
  · exact fun hleg => hl hleg.1

theorem f2iMode_cases (ctl : Word) (rz : Bool) : (∃ mode, f2iMode ctl rz = .ok mode) ∨ (¬LegalMode ctl ∧ f2iMode ctl rz = .error .badRoundingMode) := by
  cases rz
  · exact readMode_cases ctl
  · exact .inl ⟨.tz, rfl⟩

theorem endsWithin_f2iSquashed (ctl : Word) (F : Fmt) (T : IntTy) (rz : Bool) (a : Pat) :
    EndsWithin ctl (Flag.invalid ||| Flag.inexact) (f2iSquashed ctl F T rz a) := by
  have hinv : ∀ n : ℕ, EndsWithin ctl (Flag.invalid ||| Flag.inexact) (.ok { val := n, flags := Flag.invalid }) := fun _ => allowed_invalid.or_right _
  refine .ite (hinv _) ?_
  rcases f2iMode_cases ctl rz with ⟨mode, hm⟩ | ⟨hl, hm⟩ <;> rw [f2iMode] at hm <;> rw [hm]
  · exact .ite (hinv _) (allowed_rpackiWith ..)
  · exact fun hleg => hl hleg.1

/-- Above the tiny numbers, rounding sets `OVERFLOW` with `INEXACT`, or `INEXACT`, or nothing. -/
theorem allowed_roundPackWith_of_nonneg {F : Fmt} {Ge : ℕ} {mode : RMode} {tin ftz sgn : Bool} {zExp : ℤ} {zSig : ℕ} (h0 : 0 ≤ zExp) :
    Allowed (Flag.overflow ||| Flag.inexact) (roundPackWith F Ge mode tin ftz sgn zExp zSig).flags := by
  by_cases ho : (F.emaxf : ℤ) - 2 < zExp ∨ (zExp = (F.emaxf : ℤ) - 2 ∧ 2 ^ (F.N + 1) ≤ zSig + roundInc mode sgn Ge)
  · rw [roundPackWith_overflow ho]
    exact allowed_flagIf (by unfold Coherent; decide) true
  · rw [roundPackWith_eq F Ge mode tin ftz sgn zExp zSig ho (by omega)]
    dsimp only
    rw [decide_eq_false (by omega : ¬zExp < 0), Bool.false_and, Bool.false_and, show flagIf false Flag.underflow = 0#7 from rfl, BitVec.zero_or]
    exact (allowed_inexactIf _).or_left _

/-- The flags of a rounded integer: every format but F16 has room for 64 bits (R231). -/
def intFlags (F : Fmt) : Flags := if F = .f16 then Flag.overflow ||| Flag.inexact else Flag.inexact

theorem bias_gt_of_ne_f16 {F : Fmt} (h : F ≠ .f16) : 64 < F.bias := by
  revert h
  cases F <;> decide

theorem endsWithin_i2f (ctl : Word) (F : Fmt) {T : IntTy} {x : ℕ} (hx : x < 2 ^ T.width) : EndsWithin ctl (intFlags F) (i2f ctl F T x) := by
  by_cases h0 : intVal T x = 0
  · rw [i2f_of_intVal_eq_zero h0]
    exact endsWithin_quietly _
  · obtain ⟨zExp, zSig, hin, hr⟩ := roundPackFull_input ctl F (decide (intVal T x < 0)) (r := (Frac.ofInt (intVal T x)).abs) Nat.one_pos
      (Int.natCast_pos.mpr (Int.natAbs_pos.mpr h0))
    have hval : ((Frac.ofInt (intVal T x)).abs.toRat : ℝ) = (intVal T x).natAbs := by
      rw [Frac.toRat_abs, Frac.toRat_ofInt, Rat.cast_abs, Rat.cast_intCast, Nat.cast_natAbs, Int.cast_abs]
    have hge : (1 : ℝ) ≤ (intVal T x).natAbs := by exact_mod_cast Int.natAbs_pos.mpr h0
    have hpos : (0 : ℝ) < (intVal T x).natAbs := one_pos.trans_le hge
    have hlt : ((intVal T x).natAbs : ℝ) < 2 ^ (64 : ℤ) := by
      have hw : T.width ≤ 64 := by cases T <;> decide
      exact_mod_cast (intVal_range hx).2.2.trans_le (Nat.pow_le_pow_right two_pos hw)
    rw [hval] at hin
    rw [i2f_of_intVal_ne_zero h0, hr]
    have hbias : 1 ≤ F.bias := by cases F <;> decide
    have hlow : 0 ≤ zExp := by have := hin.le_exp hpos (k := 0) (by rwa [zpow_zero]); omega
    refine endsWithin_rpackFull_of_flags fun mode => ?_
    unfold intFlags
    split_ifs with hF
    · exact allowed_roundPackWith_of_nonneg hlow
    · have hroom := bias_gt_of_ne_f16 hF
      have := hin.exp_lt hpos hlt
      have := F.emaxf_eq
      exact allowed_roundPackWith_normal hlow (by omega)

/-- The formats in the order of their codes widen each other (R240). -/
theorem widens_of_code_le {F F' : Fmt} (h : F.code.toNat ≤ F'.code.toNat) : Widens F F' := by
  revert h
  unfold Widens
  cases F <;> cases F' <;> decide

/-- The flags of a conversion from `F` to `F'`, beside those of a NaN: the engine's when it narrows, and else the flush's (R240). -/
def convertFlags (F F' : Fmt) : Flags := if narrowing F.code F'.code then engineFlags else Flag.outputDenormal

theorem endsWithin_f2fSquashed (pol : Config.NanPolicy) (ctl : Word) (F F' : Fmt) (a : Pat) :
    EndsWithin ctl (Flag.invalid ||| convertFlags F F') (f2fSquashed pol ctl F F' a) := by
  unfold f2fSquashed
  split_ifs with hnan hinf hzero
  · exact (allowed_invalidIf _).or_right _
  · exact endsWithin_quietly _
  · exact endsWithin_quietly _
  · refine EndsWithin.or_left ?_
    unfold convertFlags
    split_ifs with hn
    · exact endsWithin_rpackFull ..
    · have hw : Widens F F' := widens_of_code_le (by simpa [narrowing] using hn)
      have hfin : isFinite F a = true := (isFinite_iff F a).mpr ⟨by simpa using hinf, by simpa using hnan⟩
      have hx := (holds_abs_valQ hfin (mt (isValZero_iff F a).mpr hzero)).widen hw
      rw [← mag_toRat] at hx
      exact endsWithin_roundPackFull_of_holds (mag_den_pos F a) hx ctl _

/-! ## Comparisons and min/max (R291, R297) -/

theorem allowed_compareSquashed (pol : Config.NanPolicy) (F : Fmt) (q : Bool) (a b : Pat) : Allowed Flag.invalid (compareSquashed pol F q a b).flags := by
  unfold compareSquashed
  split
  · exact allowed_invalidIf _
  · exact allowed_zero _

theorem allowed_minMaxSquashed (pol : Config.NanPolicy) (F : Fmt) (ismin ismag : Bool) (a b : Pat) :
    Allowed Flag.invalid (minMaxSquashed pol F ismin ismag a b).flags := by
  unfold minMaxSquashed
  split_ifs
  · exact allowed_zero _
  · exact allowed_zero _
  · exact allowed_invalidIf _
  · exact allowed_zero _

end Sys2Proof.Machine
end

section
/-!
SUPPORT. How every instruction but the register writes and the divides ends (R341, R344).
-/

namespace Sys2Proof.Machine

/-! ## The rules with their prologue (R152, R251) -/

section
variable (pol : Config.NanPolicy) (ctl : Word) (F : Fmt) (a b c : Pat)

theorem squashFlags3_and : (squashFlag ctl F a ||| squashFlag ctl F b ||| squashFlag ctl F c) &&& ~~~Flag.inputDenormal = 0 :=
  (or_and_mask (squashFlags_and ctl F a b) _).trans (squashFlag_and ctl F c)

theorem allowed_compare (q : Bool) : Allowed (Flag.inputDenormal ||| Flag.invalid) (compare pol ctl F q a b).flags :=
  (allowed_compareSquashed ..).raise_inputDenormal (squashFlags_and ctl F a b)

theorem allowed_minMax (ismin ismag : Bool) : Allowed (Flag.inputDenormal ||| Flag.invalid) (minMax pol ctl F ismin ismag a b).flags :=
  (allowed_minMaxSquashed ..).raise_inputDenormal (squashFlags_and ctl F a b)

end

/-! ## Instructions -/

/-- The instruction ends within the mask of its row. -/
def StaysWithin (i : Instr) (s : State) : Prop := ∃ v, Ends i s v ∧ EndsWithin s.ctl (flagMask i.command) v

section
variable {i : Instr} {s : State} {mask : Flags}

theorem staysWithin_of_answer {r : Wide} {x : Dword} {m : Flags} (hmask : flagMask i.command = mask) (h : exec i s = .next (answer r x m s))
    (hm : Allowed mask m) : StaysWithin i s :=
  ⟨.ok ⟨(r, x), m⟩, h, hmask ▸ hm⟩

/-- A row that sets no flag. -/
theorem staysWithin_of_answer_zero {r : Wide} {x : Dword} (h : exec i s = .next (answer r x 0 s)) : StaysWithin i s :=
  staysWithin_of_answer rfl h (allowed_zero _)

theorem staysWithin_of_complete {w : Except ContractCause (Flagged Wide)} (hmask : flagMask i.command = mask) (h : exec i s = complete w s)
    (hw : EndsWithin s.ctl mask w) : StaysWithin i s := by
  refine ⟨w.map (Flagged.map (·, 0)), ?_, hmask ▸ hw.map _⟩
  rcases w with c | v <;> exact h

theorem staysWithin_of_completePat {F : Fmt} {w : Except ContractCause (Flagged Pat)} (hmask : flagMask i.command = mask)
    (h : exec i s = completePat F w s) (hw : EndsWithin s.ctl mask w) : StaysWithin i s :=
  staysWithin_of_complete hmask h (hw.map _)

theorem staysWithin_of_completeInt {T : IntTy} {w : Except ContractCause (Flagged ℕ)} (hmask : flagMask i.command = mask)
    (h : exec i s = completeInt T w s) (hw : EndsWithin s.ctl mask w) : StaysWithin i s :=
  staysWithin_of_complete hmask h (hw.map _)

/-- A rule of patterns with the common prologue: the flags of its own, and `INPUT_DENORMAL`. -/
theorem staysWithin_of_raise {F : Fmt} {w : Except ContractCause (Flagged Pat)} {m : Flags} (hmask : flagMask i.command = Flag.inputDenormal ||| mask)
    (h : exec i s = completePat F (w.map (Flagged.raise m)) s) (hm : m &&& ~~~Flag.inputDenormal = 0) (hw : EndsWithin s.ctl mask w) : StaysWithin i s :=
  staysWithin_of_completePat hmask h (hw.raise hm)

end

theorem staysWithin_compare {i : Instr} {s : State} {F : Fmt} {q : Bool} {r : Wide} (hmask : flagMask i.command = Flag.inputDenormal ||| Flag.invalid)
    (h : exec i s = .next (answer r 0 (compare nanPolicy s.ctl F q (patA F s) (patB F s)).flags s)) : StaysWithin i s :=
  staysWithin_of_answer hmask h (allowed_compare ..)

theorem staysWithin_minMax {i : Instr} {s : State} {F : Fmt} {ismin ismag : Bool} (hmask : flagMask i.command = Flag.inputDenormal ||| Flag.invalid)
    (h : exec i s = minMaxOp nanPolicy ismin ismag F s) : StaysWithin i s :=
  staysWithin_of_completePat hmask h (allowed_minMax ..)

/-- R341 by the rows of R75. -/
theorem staysWithin (i : Instr) (s : State) (hc : i ≠ .wrctl) (hf : i ≠ .wrflg) (he : i ≠ .divest128) (hq : i ≠ .divq128) : StaysWithin i s := by
  induction i using rowCases with
  | add n => exact staysWithin_of_answer_zero (exec_add n s)
  | sub n => exact staysWithin_of_answer_zero (exec_sub n s)
  | cmpeq n => exact staysWithin_of_answer_zero (exec_cmpeq n s)
  | cmpne n => exact staysWithin_of_answer_zero (exec_cmpne n s)
  | cmplt n => exact staysWithin_of_answer_zero (exec_cmplt n s)
  | cmple n => exact staysWithin_of_answer_zero (exec_cmple n s)
  | shl n => exact staysWithin_of_answer_zero (exec_shl n s)
  | shr n => exact staysWithin_of_answer_zero (exec_shr n s)
  | shrj n => exact staysWithin_of_answer_zero (exec_shrj n s)
  | clz n => exact staysWithin_of_answer_zero (exec_clz n s)
  | mul n i hi => exact staysWithin_of_answer_zero (exec_mul n i hi s)
  | mul128x128 => exact staysWithin_of_answer_zero (exec_mul128x128 s)
  | divest128 => exact absurd rfl he
  | divq128 => exact absurd rfl hq
  | xsign F => exact staysWithin_of_answer_zero (exec_xsign F s)
  | xexp F => exact staysWithin_of_answer_zero (exec_xexp F s)
  | xsig F => exact staysWithin_of_answer_zero (exec_xsig F s)
  | pack F => exact staysWithin_of_answer_zero (exec_pack F s)
  | rpack F => exact staysWithin_of_completePat (by cases F <;> rfl) (exec_rpack F s) (endsWithin_rpack ..)
  | nrpack F => exact staysWithin_of_completePat (by cases F <;> rfl) (exec_nrpack F s) (endsWithin_nrpack ..)
  | rpacki T => exact staysWithin_of_completeInt (by cases T <;> rfl) (exec_rpacki T s) (endsWithin_rpacki ..)
  | issnan F => exact staysWithin_of_answer_zero (exec_issnan F s)
  | isqnan F => exact staysWithin_of_answer_zero (exec_isqnan F s)
  | propnan F => exact staysWithin_of_completePat (by cases F <;> rfl) (exec_propnan F s) (endsWithin_propNaN2 (mask := 0) ..)
  | propnan3 F z => exact staysWithin_of_completePat (by cases F <;> rfl) (exec_propnan3 F z s) (endsWithin_propNaN3 (mask := 0) ..)
  | defnan F => exact staysWithin_of_completePat rfl (exec_defnan F s) (endsWithin_quietly _)
  | i2f F T =>
    exact staysWithin_of_completePat (mask := Flag.outputDenormal ||| intFlags F) (by cases F <;> cases T <;> rfl) (exec_i2f F T s)
      (endsWithin_i2f _ F (Nat.mod_lt _ (by positivity))).or_left
  | f2i F T rz =>
    exact staysWithin_of_completeInt (by cases F <;> cases T <;> rfl) (exec_f2i F T rz s) ((endsWithin_f2iSquashed ..).raise (squashFlag_and ..))
  | f2f F F' i h =>
    exact staysWithin_of_raise (by cases F <;> cases F' <;> cases h <;> rfl) (exec_f2f F F' i h s) (squashFlag_and ..) (endsWithin_f2fSquashed ..)
  | fadd F => exact staysWithin_of_raise (by cases F <;> rfl) (exec_fadd F s) (squashFlags_and ..) (endsWithin_addSubSquashed ..)
  | fsub F => exact staysWithin_of_raise (by cases F <;> rfl) (exec_fsub F s) (squashFlags_and ..) (endsWithin_addSubSquashed ..)
  | fmul F => exact staysWithin_of_raise (by cases F <;> rfl) (exec_fmul F s) (squashFlags_and ..) (endsWithin_mulSquashed ..)
  | fdiv F => exact staysWithin_of_raise (by cases F <;> rfl) (exec_fdiv F s) (squashFlags_and ..) (endsWithin_divSquashed ..)
  | frem F => exact staysWithin_of_raise (by cases F <;> rfl) (exec_frem F s) (squashFlags_and ..) (endsWithin_remSquashed ..)
  | fma F negC negP negR halve =>
    exact staysWithin_of_raise (by cases F <;> rfl) (exec_fma F negC negP negR halve s) (squashFlags3_and ..) (endsWithin_fmaSquashed ..)
  | fsqrt F =>
    exact staysWithin_of_raise (mask := Flag.outputDenormal ||| (Flag.invalid ||| Flag.inexact)) (by cases F <;> rfl) (exec_fsqrt F s)
      (squashFlag_and ..) (endsWithin_sqrtSquashed ..).or_left
  | frint F => exact staysWithin_of_raise (by cases F <;> rfl) (exec_frint F s) (squashFlag_and ..) (endsWithin_rintSquashed ..)
  | fscalbn F => exact staysWithin_of_raise (by cases F <;> rfl) (exec_fscalbn F s) (squashFlag_and ..) (endsWithin_scalbnSquashed ..)
  | feq F q => exact staysWithin_compare (by cases F <;> rfl) (exec_feq F q s)
  | fle F q => exact staysWithin_compare (by cases F <;> rfl) (exec_fle F q s)
  | flt F q => exact staysWithin_compare (by cases F <;> rfl) (exec_flt F q s)
  | funord F q => exact staysWithin_compare (by cases F <;> rfl) (exec_funord F q s)
  | fcmp F q => exact staysWithin_compare (by cases F <;> rfl) (exec_fcmp F q s)
  | fminnum F => exact staysWithin_minMax (by cases F <;> rfl) (exec_fminnum F s)
  | fmaxnum F => exact staysWithin_minMax (by cases F <;> rfl) (exec_fmaxnum F s)
  | fminnummag F => exact staysWithin_minMax (by cases F <;> rfl) (exec_fminnummag F s)
  | fmaxnummag F => exact staysWithin_minMax (by cases F <;> rfl) (exec_fmaxnummag F s)
  | rdctl => exact staysWithin_of_answer_zero (exec_rdctl s)
  | wrctl => exact absurd rfl hc
  | rdflg => exact staysWithin_of_answer_zero (exec_rdflg s)
  | wrflg => exact absurd rfl hf

/-! ## The obligations -/

/-- The instruction goes on, and ORs a mask into `FLG` that R341 allows its row. -/
def RaisesAllowed (i : Instr) (s : State) : Prop :=
  ∃ (t : State) (m : Flags), exec i s = .next t ∧ t.flg = s.flg ||| m.setWidth 32 ∧ Allowed (flagMask i.command) m

theorem StaysWithin.raisesAllowed {i : Instr} {s : State} (h : StaysWithin i s) : RaisesAllowed i s := by
  obtain ⟨c | v, hends, hv⟩ := h
  · exact ⟨_, 0, hends, by simp, allowed_zero _⟩
  · exact ⟨_, v.flags, hends, rfl, hv⟩

/-- The divides raise no flag, whether their precondition fails or not. -/
theorem Divides.raisesAllowed {i : Instr} {f : ℕ → ℕ → Wide × Dword} (h : Divides i f) (s : State) : RaisesAllowed i s := by
  rcases h s with ⟨c, -, hx⟩ | ⟨-, hx⟩
  · exact ⟨_, 0, hx, by simp, allowed_zero _⟩
  · exact ⟨_, 0, hx, rfl, allowed_zero _⟩

/-- Settles O18: `WRCTL` and the divides raise no flag, and every other instruction ends within its row's mask (`staysWithin`). -/
theorem flagCauses : Obligations.FlagCauses := by
  intro i s hf
  by_cases hc : i = .wrctl
  · subst hc
    exact ⟨_, 0, exec_wrctl_eq s, by simp, allowed_zero _⟩
  by_cases he : i = .divest128
  · subst he
    exact divides_divest128.raisesAllowed s
  by_cases hq : i = .divq128
  · subst hq
    exact divides_divq128.raisesAllowed s
  exact (staysWithin i s hc hf he hq).raisesAllowed

/-- A legal `CTL` leaves an instruction no contract violation but the divides' precondition (R344). -/
theorem completes_of_legal {i : Instr} {s : State} (hmode : LegalMode s.ctl) (hprec : LegalPrecision s.ctl) (he : i ≠ .divest128) (hq : i ≠ .divq128) :
    Completes i s := by
  by_cases hc : i = .wrctl
  · subst hc
    exact completes_of_answer (exec_wrctl s)
  by_cases hf : i = .wrflg
  · subst hf
    exact completes_of_answer (exec_wrflg s)
  obtain ⟨c | v, hends, hv⟩ := staysWithin i s hc hf he hq
  · exact absurd ⟨hmode, hprec⟩ hv
  · exact ⟨_, _, hends, rfl, rfl⟩

/-- Settles O19: it completes (`completes_of_legal`), and `exec_ends` says what an instruction that completes leaves unchanged. -/
theorem completesWithLegalModes : Obligations.CompletesWithLegalModes := by
  intro i s hmode hprec he hq
  obtain ⟨t, resp, ht, hresp, herr⟩ := completes_of_legal hmode hprec he hq
  obtain ⟨t', resp', ht', hresp', ⟨hreq, hin, hres, hno⟩, hend⟩ := exec_ends i s
  cases ht.symm.trans ht'
  cases hresp.symm.trans hresp'
  rcases hend with ⟨-, hdone⟩ | ⟨rfl, -⟩
  · exact ⟨t, resp, ht, hresp, herr, hdone.halt, hreq, hin, hres, hno, hdone.ctl, hdone.flg⟩
  · cases herr

end Sys2Proof.Machine
end
